-- ==== Sys2Proof/Word.lean ====
section
/-! DEFINITION. The words of the Bandrel 416: bytes on the host ports, timeline values, and the
numbers that name ports, lines and slots (spec/00_scope.md, 0.5 and 0.7). -/

namespace Sys2Proof

/-- A byte on a host port (R151). -/
abbrev Byte := BitVec 8

/-- A 48-bit timeline value or a 48-bit amount of ticks (R1). -/
abbrev Tick := BitVec 48

/-- A host port, 0 to 3. "None" is never a port number: it is `Option.none` (0.7, Ports and owners). -/
abbrev Port := Fin 4

/-- A trigger line, TRG0 to TRG15 (R81). -/
abbrev LineId := Fin 16

/-- A capture line, CAP0 to CAP7 (R97). -/
abbrev CaptureId := Fin 8

/-- A slot of the slot store, 0 to 255 (R45). -/
abbrev SlotId := Fin 256

/-- The level of a pin. -/
inductive Level where
  | low
  | high
deriving DecidableEq, Repr

end Sys2Proof
end

