-- ==== Sys2Proof/Syntax.lean ====
section
/-! DEFINITION. The commands the 416 takes from outside: one constructor of `Instr` for each row of
spec/opcode_table.json. A host command is given by the frame that carries it: the port it arrives
on, its sequence number and its argument bytes (R151); its code is the row's and its check byte is
the good one (R168). -/

namespace Sys2Proof

/-- The parts of one REFCLK cycle that are taken after the cycle's own row, as events of their own:
the capture unit's event for its eight lines, and the lease count of a port engine (bit p for port
p). A cycle that holds nothing back is taken whole (0.7, Events and order; R98, R102, R135). -/
structure Held where
  capture : Bool
  leases : BitVec 4
deriving DecidableEq, Repr

/-- A whole cycle: nothing is held back. -/
def Held.nothing : Held := ⟨false, 0⟩

/-- The host commands of the 416, by name (R163). -/
inductive Command where
  | status | attach | detach
  | readTime | start | halt | step | slew
  | claimAuthority | releaseAuthority | setReserves | setCeiling
  | arm | armOnCapture | modify | pause | resume | cancel | queryEntry | listEntries
  | claimLine | releaseLine | driveLine | readLines
  | claimCapture | releaseCapture | configureCapture | subscribe | unsubscribe | readCapture
  | fetchNotes | setAttention
deriving DecidableEq, Repr

/-- One constructor per row of spec/opcode_table.json, in the table's order. -/
inductive Instr where
  /-- POWER_ON (R1). -/
  | powerOn
  /-- DEVICE_RESET: RST_N falls (R128). -/
  | deviceReset
  /-- RESET_RELEASE: RST_N rises (R2). -/
  | resetRelease
  /-- TIMELINE_ADVANCE: a REFCLK cycle (R3). -/
  | timelineAdvance (held : Held)
  /-- SLEW_CYCLE: the REFCLK cycle on which the slew count reaches the spacing (R13). -/
  | slewCycle (held : Held)
  /-- SLEW_DONE: the slew cycle that brings slew remaining to zero (R14). -/
  | slewDone (held : Held)
  /-- PULSE_EXPIRY: the REFCLK cycle, taken whole, whose count ends the pulse of one trigger line
  (R88, R89). -/
  | pulseExpiry (line : LineId)
  /-- HOLDOFF_WINDOW_CLOSE: the capture unit's event of a REFCLK cycle, with no pin changed, whose
  count closes the window of one capture line (R98, R99). -/
  | holdoffWindowClose (line : CaptureId)
  /-- LEASE_UNIT_BOUNDARY of one port (R132). -/
  | leaseUnitBoundary (port : Port)
  /-- LEASE_EXPIRY of one port (R134). -/
  | leaseExpiry (port : Port)
  /-- CAPTURE_EDGE: the capture unit's event of a REFCLK cycle, at which the eight CAP pins are
  sampled at `levels`. The edges are taken in the order `order`, those of lines it leaves out after
  it in line order (R98, R101). `early` says that it is the event of the coming cycle, taken before
  that cycle's advance; otherwise it is the event that the last cycle held back (R102). -/
  | captureEdge (levels : Vector Level 8) (order : List CaptureId) (early : Bool)
  /-- FRAME_BEGIN: HCSn_N falls (R151). -/
  | frameBegin (port : Port)
  /-- FRAME_END: HCSn_N rises (R157). -/
  | frameEnd (port : Port)
  /-- BAD_FRAME_LENGTH: the length byte of a frame arrives (R153). -/
  | badFrameLength (port : Port) (code seq len : Byte)
  /-- BAD_FRAME: a frame whose check byte is as given arrives (R154). -/
  | badFrame (port : Port) (code seq : Byte) (args : List Byte) (check : Byte)
  /-- REPLAY: a good frame is sent again (R155). -/
  | replay (port : Port) (code seq : Byte) (args : List Byte)
  /-- RESPONSE_SHIFTED_OUT: the rest of the response is clocked out (R156). -/
  | responseShiftedOut (port : Port)
  /-- UNKNOWN_COMMAND: a good frame with a code that names no command (R163). -/
  | unknownCommand (port : Port) (code seq : Byte) (args : List Byte)
  | status (port : Port) (seq : Byte) (args : List Byte)
  | attach (port : Port) (seq : Byte) (args : List Byte)
  | detach (port : Port) (seq : Byte) (args : List Byte)
  | readTime (port : Port) (seq : Byte) (args : List Byte)
  | start (port : Port) (seq : Byte) (args : List Byte)
  | halt (port : Port) (seq : Byte) (args : List Byte)
  | step (port : Port) (seq : Byte) (args : List Byte)
  | slew (port : Port) (seq : Byte) (args : List Byte)
  | claimAuthority (port : Port) (seq : Byte) (args : List Byte)
  | releaseAuthority (port : Port) (seq : Byte) (args : List Byte)
  | setReserves (port : Port) (seq : Byte) (args : List Byte)
  | setCeiling (port : Port) (seq : Byte) (args : List Byte)
  | arm (port : Port) (seq : Byte) (args : List Byte)
  | armOnCapture (port : Port) (seq : Byte) (args : List Byte)
  | modify (port : Port) (seq : Byte) (args : List Byte)
  | pause (port : Port) (seq : Byte) (args : List Byte)
  | resume (port : Port) (seq : Byte) (args : List Byte)
  | cancel (port : Port) (seq : Byte) (args : List Byte)
  | queryEntry (port : Port) (seq : Byte) (args : List Byte)
  | listEntries (port : Port) (seq : Byte) (args : List Byte)
  | claimLine (port : Port) (seq : Byte) (args : List Byte)
  | releaseLine (port : Port) (seq : Byte) (args : List Byte)
  | driveLine (port : Port) (seq : Byte) (args : List Byte)
  | readLines (port : Port) (seq : Byte) (args : List Byte)
  | claimCapture (port : Port) (seq : Byte) (args : List Byte)
  | releaseCapture (port : Port) (seq : Byte) (args : List Byte)
  | configureCapture (port : Port) (seq : Byte) (args : List Byte)
  | subscribe (port : Port) (seq : Byte) (args : List Byte)
  | unsubscribe (port : Port) (seq : Byte) (args : List Byte)
  | readCapture (port : Port) (seq : Byte) (args : List Byte)
  | fetchNotes (port : Port) (seq : Byte) (args : List Byte)
  | setAttention (port : Port) (seq : Byte) (args : List Byte)
  /-- BYTE_RECEIVED: eight bits are clocked in on HSDI (R151). -/
  | byteReceived (port : Port) (byte : Byte)
  /-- REFCLK_CYCLE: a REFCLK cycle (R88, R99, R132). -/
  | refclkCycle (held : Held)
deriving DecidableEq, Repr

end Sys2Proof
end

