-- ==== Sys2Proof/Decode.lean ====
section
/-! DEFINITION. Reading bytes: multi-byte fields, the CRC-8 of a frame, the codes of the commands and
the lengths they call for. spec/opcode_table.json gives no row any bits, so `decodeTableWord` answers
none on every word. -/

namespace Sys2Proof

/-- The number that bytes spell, most significant byte first (R166, Byte order). -/
def beNat (bytes : List Byte) : Nat :=
  bytes.foldl (fun acc b => acc * 256 + b.toNat) 0

/-- The number in the `n` argument bytes that follow the first `off`. -/
def argNat (args : List Byte) (off n : Nat) : Nat :=
  beNat ((args.drop off).take n)

/-- The argument byte at offset `off`, 0 where there is none. -/
def argByte (args : List Byte) (off : Nat) : Byte :=
  args.getD off 0

/-- One shift of the CRC register: the bit shifted out of the top decides whether 07h is combined
in (R168, step 3). -/
def crcShift (r : Byte) : Byte :=
  if r.msb then (r <<< 1) ^^^ 0x07#8 else r <<< 1

/-- One byte taken into the CRC register (R168, step 3). -/
def crcByte (r b : Byte) : Byte :=
  crcShift (crcShift (crcShift (crcShift (crcShift (crcShift (crcShift (crcShift (r ^^^ b))))))))

/-- The CRC-8 of an envelope (R168). -/
def crc8 (bytes : List Byte) : Byte :=
  bytes.foldl crcByte 0xFF#8

/-- The bytes of a command before its check byte: code, sequence, length and arguments (R151,
R167). -/
def frameBody (code seq : Byte) (args : List Byte) : List Byte :=
  code :: seq :: BitVec.ofNat 8 args.length :: args

/-- The good check byte of a command (R168). -/
def frameCheck (code seq : Byte) (args : List Byte) : Byte :=
  crc8 (frameBody code seq args)

/-- The code of a command, from the rule of the chapter that carries it out. -/
def Command.code : Command → Byte
  | .status => 0x02 | .attach => 0x03 | .detach => 0x04
  | .readTime => 0x10 | .start => 0x11 | .halt => 0x12 | .step => 0x13 | .slew => 0x14
  | .claimAuthority => 0x20 | .releaseAuthority => 0x21 | .setReserves => 0x22
  | .setCeiling => 0x23
  | .arm => 0x30 | .armOnCapture => 0x31 | .modify => 0x32 | .pause => 0x33 | .resume => 0x34
  | .cancel => 0x35 | .queryEntry => 0x36 | .listEntries => 0x37
  | .claimLine => 0x40 | .releaseLine => 0x41 | .driveLine => 0x42 | .readLines => 0x43
  | .claimCapture => 0x50 | .releaseCapture => 0x51 | .configureCapture => 0x52
  | .subscribe => 0x53 | .unsubscribe => 0x54 | .readCapture => 0x55
  | .fetchNotes => 0x60 | .setAttention => 0x61

/-- Every command, in the order of the codes. -/
def Command.all : List Command :=
  [.status, .attach, .detach, .readTime, .start, .halt, .step, .slew,
   .claimAuthority, .releaseAuthority, .setReserves, .setCeiling,
   .arm, .armOnCapture, .modify, .pause, .resume, .cancel, .queryEntry, .listEntries,
   .claimLine, .releaseLine, .driveLine, .readLines,
   .claimCapture, .releaseCapture, .configureCapture, .subscribe, .unsubscribe, .readCapture,
   .fetchNotes, .setAttention]

/-- The command a code names, none for an unknown code (R163). -/
def Command.ofCode (code : Byte) : Option Command :=
  Command.all.find? (fun c => c.code == code)

/-- The bytes the optional fields take, by the flags byte: period 4, count 2, line action 4 (R51,
R169). -/
def optionLength (flags : Byte) (withLine : Bool) : Nat :=
  (if flags.getLsbD 4 then 4 else 0) + (if flags.getLsbD 5 then 2 else 0)
    + (if withLine && flags.getLsbD 6 then 4 else 0)

/-- Whether the argument bytes have the length their command calls for (R163). The three
variable-length commands must reach their flags byte, the third argument byte. -/
def Command.lengthFits (c : Command) (args : List Byte) : Bool :=
  match c with
  | .status | .detach | .readTime | .start | .halt | .claimAuthority | .releaseAuthority
  | .readLines => args.length == 0
  | .listEntries | .releaseLine | .claimCapture | .releaseCapture | .subscribe | .unsubscribe
  | .readCapture | .fetchNotes | .setAttention => args.length == 1
  | .attach | .pause | .resume | .cancel | .queryEntry | .claimLine => args.length == 2
  | .setCeiling => args.length == 3
  | .driveLine => args.length == 4
  | .configureCapture => args.length == 5
  | .slew => args.length == 6
  | .step => args.length == 7
  | .setReserves => args.length == 8
  | .arm => 3 ≤ args.length && args.length == 9 + optionLength (argByte args 2) true
  | .armOnCapture => 3 ≤ args.length && args.length == 8 + optionLength (argByte args 2) true
  | .modify => 3 ≤ args.length && args.length == 9 + optionLength (argByte args 2) false

/-- The command that a word spells by the bits of spec/opcode_table.json. No row of the table gives
any bits, so no word spells a command. -/
def decodeTableWord (_nbits _w : Nat) : Option Instr := none

end Sys2Proof
end

