-- ==== Sys2Proof/Config.lean ====
section
/-! DEFINITION. What the manual fixes once for the whole part, as plain numbers.
The 416 has no implementation options, and the manual leaves no result of a command open, so there
is no free value here: every order the manual leaves open is an order of commands in `pending`. -/

namespace Sys2Proof.Config

/-- The horizon H, 2^46 ticks (0.7, The horizon; R6). -/
def horizon : Int := 70368744177664

/-- The largest length byte of a command that is not a framing error (R153). -/
def maxArgs : Nat := 24

/-- The most ordinary notes a notification queue stores: a 31st is stored, a 32nd is not (R118). -/
def ordinaryNotes : Nat := 31

/-- The most notes one FETCH_NOTES returns (R120). -/
def maxFetch : Nat := 4

/-- The most entries one LIST_ENTRIES returns (R65). -/
def maxListed : Nat := 8

/-- The number of slots the allocation table divides (R71). -/
def storeSize : Nat := 256

/-- The longest lease period, in lease units (R127). -/
def maxLease : Nat := 4095

/-- The last unit phase before a lease unit boundary: a unit is 65,536 cycles (R132). -/
def lastPhase : BitVec 16 := 65535

/-- The least spacing of a slew, in RUNNING cycles (R12). -/
def minSpacing : Nat := 16

end Sys2Proof.Config
end

