-- ==== Sys2Proof/Machine/State.lean ====
section
/-! DEFINITION. The state of the 416, block by block (spec/00_scope.md, 0.3), as plain data, and the
state after power-on. -/

namespace Sys2Proof.Machine

/-! ## Named values -/

/-- The states of the timeline (R1). -/
inductive TimelineState where
  | idle | running | halted
deriving DecidableEq, Repr

/-- The status codes of responses (R161). -/
inductive Status where
  | ok | pending | badFrame | badCommand | notAttached | expired | notAuthority | badArgument
  | range | past | overCeiling | noSlot | quotaConflict | stale | notOwner | wrongState | owned
  | inUse
deriving DecidableEq, Repr

/-- Whether an entry's due stays fixed under a step or moves with it (R45). -/
inductive Anchor where
  | absolute | relative
deriving DecidableEq, Repr

/-- The reason an ARMED or PAUSED entry is late (R28). -/
inductive LateMark where
  | past | stepped
deriving DecidableEq, Repr

/-- The cause a FIRED note reports (R27). -/
inductive Cause where
  | onTime | past | stepped
deriving DecidableEq, Repr

/-- An operation on a trigger line; a PULSE carries its width, the others keep none (R45, R87). -/
inductive LineOp where
  | set | clear | toggle
  | pulse (width : BitVec 16)
deriving DecidableEq, Repr

/-- The line action of an entry (R45). -/
structure LineAction where
  line : LineId
  op : LineOp
deriving DecidableEq, Repr

/-- The direction of an edge (R98). -/
inductive Edge where
  | rise | fall
deriving DecidableEq, Repr

/-- Which edges a capture line accepts (R97). -/
inductive EdgeSelect where
  | off | rise | fall | both
deriving DecidableEq, Repr

/-- What an accepted edge releases (R97). -/
inductive ReleaseMode where
  | all | oldest
deriving DecidableEq, Repr

/-- The states of a session (R127). -/
inductive SessionState where
  | detached | attached | expired
deriving DecidableEq, Repr

/-- How a port's most recent session ended (R127). -/
inductive EndCause where
  | none | detach | leaseExpired | deviceReset
deriving DecidableEq, Repr

/-- The kind of reset that last occurred (R127). -/
inductive ResetCause where
  | powerOn | resetPin
deriving DecidableEq, Repr

/-- The operations of a TIMELINE note (R18). -/
inductive TimelineOp where
  | start | halt | step | slewDone | slewCut
deriving DecidableEq, Repr

/-- How the token came to be handed over (R115). -/
inductive HandoverCause where
  | release | sessionEnd
deriving DecidableEq, Repr

/-- A note record (R115). The second value of a TIMELINE note is a timeline value, or an amount in
two's complement (R166). -/
inductive Note where
  | fired (handle tag : BitVec 16) (due firedAt : Tick) (cause : Cause) (missed : BitVec 16)
      (final : Bool)
  | capture (line : CaptureId) (edge : Edge) (timestamp : Tick) (notRunning : Bool)
      (suppressed : BitVec 8)
  | timeline (op : TimelineOp) (before second : Tick)
  | authority (previous : Port) (cause : HandoverCause)
  | loss (count : BitVec 16)
deriving DecidableEq, Repr

/-! ## Timeline unit -/

/-- The slew record (R1). `amount` is the signed amount the slew was installed with, which R14 and
R18 report at its completion. -/
structure Slew where
  remaining : BitVec 32
  amount : BitVec 32
  spacing : BitVec 16
  count : BitVec 16
deriving DecidableEq, Repr

/-- The record of the timeline unit (R1). -/
structure Timeline where
  t : Tick
  state : TimelineState
  slew : Option Slew
deriving DecidableEq, Repr

/-! ## Slot store and deadline queue -/

/-- The state of an entry, with the fields that are present in that state alone (R45). -/
inductive Place where
  | armed (due : Tick) (seq : BitVec 32) (late : Option LateMark)
  | waiting (line : CaptureId) (offset : BitVec 32)
  | paused (remaining : Tick) (late : Option LateMark)
deriving DecidableEq, Repr

/-- The fields of an entry that are present in every non-FREE state (R45), with its place. -/
structure Entry where
  owner : Port
  tag : BitVec 16
  anchor : Anchor
  notify : Bool
  period : Option (BitVec 32)
  count : Option (BitVec 16)
  action : Option LineAction
  place : Place
deriving DecidableEq, Repr

/-- A slot record: its generation, and its entry unless it is FREE (R45). -/
structure Slot where
  gen : BitVec 8
  entry : Option Entry
deriving DecidableEq, Repr

/-- One port's row of the allocation table (R69). -/
structure Quota where
  reserve : Nat
  ceiling : Nat
  usage : Nat
deriving DecidableEq, Repr

/-! ## Trigger output unit -/

/-- Whether a trigger line rests or is active (R81). -/
inductive Activity where
  | idle | active
deriving DecidableEq, Repr

/-- A trigger line record (R81). -/
structure TriggerLine where
  owner : Option Port
  idleLevel : Level
  level : Activity
  pulse : Option (BitVec 16)
deriving DecidableEq, Repr

/-! ## Capture unit -/

/-- Where a unit's event of a REFCLK cycle stands against the cycles taken so far: in step, one
ahead (its row came before the cycle's) or one behind (the cycle held it back). The model's own. -/
inductive Turn where
  | inStep | ahead | behind
deriving DecidableEq, Repr

/-- The last capture of a line (R97). -/
structure LastCapture where
  timestamp : Tick
  edge : Edge
  notRunning : Bool
deriving DecidableEq, Repr

/-- A capture line record (R97). `pin` is the level the outside drives, `sample` the level the unit
last sampled, absent until the first sample after a reset (R98). -/
structure CaptureLine where
  owner : Option Port
  edgeSelect : EdgeSelect
  holdoff : BitVec 16
  mode : ReleaseMode
  subscribers : Vector Bool 4
  last : Option LastCapture
  suppressed : BitVec 8
  window : Option (BitVec 16)
  waiting : List SlotId
  pin : Level
  sample : Option Level
deriving DecidableEq, Repr

/-! ## Notification queues -/

/-- A notification queue: its records, oldest first, and its attention enable (R114). -/
structure NoteQueue where
  records : List Note
  attention : Bool
deriving DecidableEq, Repr

/-! ## Port engines -/

/-- A response before its length and check byte are formed (R156). -/
structure Response where
  status : Status
  replay : Bool
  notesPending : Bool
  holder : Bool
  data : List Byte
deriving DecidableEq, Repr

/-- The frame receiver (R151). RECEIVING holds the bytes received so far, whose number is the byte
count, and the copy of the port status byte that is being shifted out (R152). ANSWERING holds the
response and the number of its bytes that have been shifted out. -/
inductive Receiver where
  | idle
  | receiving (bytes : List Byte) (copy : Byte)
  | answering (response : Response) (sent : Nat)
  | draining
deriving DecidableEq, Repr

/-- The session record (R127). -/
structure Session where
  state : SessionState
  epoch : BitVec 8
  leasePeriod : BitVec 16
  leaseRemaining : BitVec 16
  unitPhase : BitVec 16
  lastEnd : EndCause
deriving DecidableEq, Repr

/-- The replay record (R159). -/
structure ReplayRecord where
  lastSeq : Option Byte
  lastCheck : Option Byte
  stored : Option Response
deriving DecidableEq, Repr

/-- A port engine: the level of its select pin HCSn_N, its receiver, session and replay records, and
the model's own place of its lease count (R127, R151, R159). -/
structure PortEngine where
  select : Level
  receiver : Receiver
  session : Session
  replay : ReplayRecord
  turn : Turn
deriving DecidableEq, Repr

/-! ## Authority arbiter -/

/-- The authority record (R142). -/
structure Authority where
  holder : Option Port
  waitList : List Port
deriving DecidableEq, Repr

/-! ## The device -/

/-- The state of the 416 and the commands that wait to be taken, first in first out.
`queue` holds the slots of the ARMED entries in the order in which they joined the deadline queue;
the queue's own order, by distance and then by that order (R20), is computed from it. `captureTurn`
is the model's own place of the capture unit's event, one for all eight lines (R98). -/
structure State where
  rstN : Level
  resetCause : ResetCause
  timeline : Timeline
  slots : Vector Slot 256
  queue : List SlotId
  armSeq : BitVec 32
  quotas : Vector Quota 4
  lines : Vector TriggerLine 16
  captures : Vector CaptureLine 8
  captureTurn : Turn
  notes : Vector NoteQueue 4
  ports : Vector PortEngine 4
  authority : Authority
  pending : List Instr
deriving DecidableEq, Repr

/-! ## Reset values -/

/-- The timeline record after a reset (R1). -/
def Timeline.reset : Timeline := ⟨0, .idle, none⟩

/-- A row of the allocation table after a reset (R69). -/
def Quota.reset : Quota := ⟨0, 256, 0⟩

/-- A trigger line after a reset (R81). -/
def TriggerLine.reset : TriggerLine := ⟨none, .low, .idle, none⟩

/-- A capture line after a reset, its pin as the outside drives it (R97). -/
def CaptureLine.reset (pin : Level) : CaptureLine :=
  ⟨none, .off, 0, .all, Vector.replicate 4 false, none, 0, none, [], pin, none⟩

/-- A notification queue after a reset (R114). -/
def NoteQueue.reset : NoteQueue := ⟨[], false⟩

/-- A session record after power-on (R128). -/
def Session.reset : Session := ⟨.detached, 0, 0, 0, 0, .none⟩

/-- An empty replay record (R159). -/
def ReplayRecord.empty : ReplayRecord := ⟨none, none, none⟩

/-- A port engine after power-on, its select pin as the outside drives it (R128, R151, R159). -/
def PortEngine.reset (select : Level) : PortEngine :=
  ⟨select, .idle, .reset, .empty, .inStep⟩

/-- The authority record after a reset (R142). -/
def Authority.reset : Authority := ⟨none, []⟩

/-- The machine after power-on, nothing waiting. The levels of the input pins are the outside's:
RST_N high, every select high and every CAP pin low are the model's (DESIGN CHOICE, log entry 1). -/
def State.reset : State where
  rstN := .high
  resetCause := .powerOn
  timeline := .reset
  slots := Vector.replicate 256 ⟨0, none⟩
  queue := []
  armSeq := 0
  quotas := Vector.replicate 4 .reset
  lines := Vector.replicate 16 .reset
  captures := Vector.replicate 8 (.reset .low)
  captureTurn := .inStep
  notes := Vector.replicate 4 .reset
  ports := Vector.replicate 4 (.reset .high)
  authority := .reset
  pending := []

/-! ## Reasons to stop -/

/-- What stops the block. No event of the spec does. -/
inductive Fault where
  /-- A frame row was given more than 255 argument bytes, which no length byte can announce (R151).
  Raised by every frame row on such a term and on no other. Safe: no host can send such a frame. -/
  | noSuchFrame
deriving DecidableEq, Repr

/-- Why a command has no meaning. -/
inductive Refusal where
  /-- Raised by an arm of `exec` whose command has no meaning yet; no arm raises it. Safe. -/
  | notModelled (mnemonic : String)
deriving DecidableEq, Repr

/-- What a meaning or a step answers. -/
abbrev Result := Host.Outcome State Fault Refusal

end Sys2Proof.Machine
end

