-- ==== Sys2Proof/Machine/Ops.lean ====
section
/-! DEFINITION. The named operations over the state: reading and changing one record, notes arriving
at a queue, line operations, distances and the deadline queue, firing, allocating and freeing slots,
the authority's handover, and teardown. Every meaning is built from these. -/

namespace Sys2Proof.Machine

/-! ## Tables -/

/-- The `i`-th record of a table. -/
def peek {α : Type} {n : Nat} (v : Vector α n) (i : Fin n) : α := v[i.val]

/-- The table with its `i`-th record changed by `f`. -/
def edit {α : Type} {n : Nat} (v : Vector α n) (i : Fin n) (f : α → α) : Vector α n :=
  v.set i.val (f v[i.val])

/-- The table with every record changed, each by its own number. -/
def each {α β : Type} {n : Nat} (f : Fin n → α → β) (v : Vector α n) : Vector β n :=
  ⟨⟨(List.finRange n).map (fun i => f i (peek v i))⟩, by simp⟩

/-! ## Records of the state -/

def State.slot (s : State) (i : SlotId) : Slot := peek s.slots i
def State.quota (s : State) (p : Port) : Quota := peek s.quotas p
def State.line (s : State) (l : LineId) : TriggerLine := peek s.lines l
def State.cap (s : State) (c : CaptureId) : CaptureLine := peek s.captures c
def State.noteQueue (s : State) (p : Port) : NoteQueue := peek s.notes p
def State.port (s : State) (p : Port) : PortEngine := peek s.ports p

def State.modSlot (s : State) (i : SlotId) (f : Slot → Slot) : State :=
  { s with slots := edit s.slots i f }
def State.modQuota (s : State) (p : Port) (f : Quota → Quota) : State :=
  { s with quotas := edit s.quotas p f }
def State.modLine (s : State) (l : LineId) (f : TriggerLine → TriggerLine) : State :=
  { s with lines := edit s.lines l f }
def State.modCap (s : State) (c : CaptureId) (f : CaptureLine → CaptureLine) : State :=
  { s with captures := edit s.captures c f }
def State.modNotes (s : State) (p : Port) (f : NoteQueue → NoteQueue) : State :=
  { s with notes := edit s.notes p f }
def State.modPort (s : State) (p : Port) (f : PortEngine → PortEngine) : State :=
  { s with ports := edit s.ports p f }

/-- The entry in a slot, none when the slot is FREE. -/
def State.entry (s : State) (i : SlotId) : Option Entry := (s.slot i).entry

/-- The session record of a port. -/
def State.session (s : State) (p : Port) : Session := (s.port p).session

/-- The session record of a port, changed. -/
def State.modSession (s : State) (p : Port) (f : Session → Session) : State :=
  s.modPort p (fun e => { e with session := f e.session })

/-- Whether a port's session is ATTACHED. -/
def State.attached (s : State) (p : Port) : Bool := (s.session p).state == .attached

/-- The timeline value T. -/
abbrev State.t (s : State) : Tick := s.timeline.t

/-- Whether the timeline is RUNNING. -/
def State.running (s : State) : Bool := s.timeline.state == .running

/-- Whether RST_N is held low. -/
def State.held (s : State) : Bool := s.rstN == .low

/-! ## Distances (R5, 0.7) -/

/-- The distance of a timeline value from T, a signed 48-bit number. -/
def distance (t v : Tick) : Int := (v - t).toInt

/-- A value is reached when its distance is zero or less. -/
def isReached (t v : Tick) : Bool := distance t v ≤ 0

/-- A value is past when its distance is less than zero. -/
def isPast (t v : Tick) : Bool := distance t v < 0

/-- A distance lies strictly within the horizon (R6, R53). -/
def withinHorizon (d : Int) : Bool := -Config.horizon < d && d < Config.horizon

/-! ## Notes arriving (R117) -/

/-- A count one up, staying at the top (R117, R100). -/
def saturate {w : Nat} (c : BitVec w) : BitVec w := if c = BitVec.allOnes w then c else c + 1

/-- The records after an ordinary note arrives at a queue (R117): appended while 30 or fewer stand,
otherwise counted in the LOSS record at the tail, or in a new one. -/
def arriveRecords (n : Note) (records : List Note) : List Note :=
  if records.length < Config.ordinaryNotes then records ++ [n]
  else
    match records.getLast? with
    | some (.loss c) => records.dropLast ++ [.loss (saturate c)]
    | _ => records ++ [.loss 1]

/-- A queue after an ordinary note arrives (R117). -/
def NoteQueue.arrive (n : Note) (q : NoteQueue) : NoteQueue :=
  { q with records := arriveRecords n q.records }

/-- A note sent to one port's queue. -/
def sendNote (p : Port) (n : Note) (s : State) : State := s.modNotes p (NoteQueue.arrive n)

/-- A note sent to the queue of every port that `goes` names. -/
def sendNoteTo (goes : Port → Bool) (n : Note) (s : State) : State :=
  { s with notes := each (fun p q => if goes p then q.arrive n else q) s.notes }

/-- A TIMELINE note to every port ATTACHED at the event (R18). -/
def sendTimelineNote (op : TimelineOp) (before second : Tick) (s : State) : State :=
  sendNoteTo s.attached (.timeline op before second) s

/-! ## Trigger lines (R87) -/

/-- A trigger line at rest with no pulse. -/
def TriggerLine.rest (l : TriggerLine) : TriggerLine := { l with level := .idle, pulse := none }

/-- The larger of two widths. -/
def wider (r w : BitVec 16) : BitVec 16 := if r.toNat < w.toNat then w else r

/-- An operation applied to a line, by the line's state at that moment (R87). -/
def LineOp.apply (op : LineOp) (l : TriggerLine) : TriggerLine :=
  match op with
  | .set => { l with level := .active, pulse := none }
  | .clear => l.rest
  | .toggle =>
    match l.level with
    | .idle => { l with level := .active, pulse := none }
    | .active => l.rest
  | .pulse w =>
    match l.level, l.pulse with
    | .active, some r => { l with pulse := some (wider r w) }
    | _, _ => { l with level := .active, pulse := some w }

/-- A line's count of one REFCLK cycle: a pulse loses one cycle, and its last cycle is its expiry
(R88). -/
def TriggerLine.countCycle (l : TriggerLine) : TriggerLine :=
  match l.pulse with
  | none => l
  | some w => if w.toNat ≤ 1 then l.rest else { l with pulse := some (w - 1) }

/-- The level a TRG pin is driven to: LOW while RST_N is low, otherwise as the record gives (R82,
R95). -/
def trgPin (s : State) (l : LineId) : Level :=
  if s.held then .low
  else
    match (s.line l).level, (s.line l).idleLevel with
    | .idle, v => v
    | .active, .low => .high
    | .active, .high => .low

/-- The level of ATTNn_N: asserted, low, exactly when the queue is non-empty and its attention is
enabled (R123). -/
def attnPin (s : State) (p : Port) : Level :=
  if (s.noteQueue p).attention && !(s.noteQueue p).records.isEmpty then .low else .high

/-! ## The deadline queue (R19 to R22) -/

/-- The due of an ARMED entry; 0 for every other slot, which the queue never holds. -/
def State.due (s : State) (i : SlotId) : Tick :=
  match s.entry i with
  | some { place := .armed due _ _, .. } => due
  | _ => 0

/-- The queue in its order: ascending distance, and among equal dues the order of joining (R20). The
sort is stable and `queue` is in the order of joining. -/
def State.queueOrder (s : State) : List SlotId :=
  s.queue.insertionSort (fun i j => distance s.t (s.due i) ≤ distance s.t (s.due j))

/-- The reached entries of the queue, in queue order (R23). -/
def State.reachedInOrder (s : State) : List SlotId :=
  s.queueOrder.filter (fun i => isReached s.t (s.due i))

/-- A slot leaves the deadline queue; the others keep their order (R20). -/
def leaveQueue (i : SlotId) (s : State) : State :=
  { s with queue := s.queue.filter (fun j => j != i) }

/-- An entry joins the deadline queue, in the slot it stands in, at a due and with a late mark: it
becomes ARMED and takes the next arm sequence (R19, R21). It leaves its earlier place in the queue,
if it had one. -/
def joinQueue (i : SlotId) (e : Entry) (due : Tick) (late : Option LateMark) (s : State) : State :=
  { s with
    slots := edit s.slots i (fun sl => { sl with entry := some { e with place := .armed due s.armSeq late } })
    queue := s.queue.filter (fun j => j != i) ++ [i]
    armSeq := s.armSeq + 1 }

/-! ## Slots (R45 to R49, R69 to R73) -/

/-- The handle of the entry in a slot: slot index, then generation (R49). -/
def State.handle (s : State) (i : SlotId) : BitVec 16 :=
  BitVec.ofNat 8 i.val ++ (s.slot i).gen

/-- A slot's record once its entry is freed (R47, steps 2 and 4). -/
def Slot.freed (sl : Slot) : Slot := ⟨sl.gen + 1, none⟩

/-- The entry of a slot leaves the place it stands in (R47, step 1). -/
def leavePlace (i : SlotId) (place : Place) (s : State) : State :=
  match place with
  | .armed _ _ _ => leaveQueue i s
  | .waiting c _ => s.modCap c (fun r => { r with waiting := r.waiting.filter (fun j => j != i) })
  | .paused _ _ => s

/-- A slot is freed (R47). A FREE slot is not freed again. -/
def freeSlot (i : SlotId) (s : State) : State :=
  match s.entry i with
  | none => s
  | some e =>
    ((leavePlace i e.place s).modSlot i Slot.freed).modQuota e.owner
      (fun q => { q with usage := q.usage - 1 })

/-- The slots, by ascending index. -/
def allSlots : List SlotId := List.finRange 256

/-- The ports, by ascending number. -/
def allPorts : List Port := List.finRange 4

/-- A sum over the ports. -/
def sumPorts (f : Port → Nat) : Nat := (allPorts.map f).sum

/-- The size S of the shared pool (R71). -/
def State.poolSize (s : State) : Nat :=
  Config.storeSize - sumPorts (fun p => (s.quota p).reserve)

/-- The shared use: what each usage exceeds its reserve by (R71). -/
def State.sharedUse (s : State) : Nat :=
  sumPorts (fun p => (s.quota p).usage - (s.quota p).reserve)

/-- The FREE slot with the lowest index (R73). -/
def State.lowestFree (s : State) : Option SlotId :=
  allSlots.find? (fun i => (s.entry i).isNone)

/-- The allocation decision for a port: the slot it is granted, or the status it is refused with
(R72, R73). A grant always finds a FREE slot in a state the part can reach (R73). -/
def allocate (p : Port) (s : State) : Except Status SlotId :=
  let q := s.quota p
  if q.ceiling ≤ q.usage then .error .overCeiling
  else if q.usage < q.reserve || s.sharedUse < s.poolSize then
    match s.lowestFree with
    | some i => .ok i
    | none => .error .noSlot
  else .error .noSlot

/-- The port's usage rises by one at an allocation (R70). -/
def raiseUsage (p : Port) (s : State) : State :=
  s.modQuota p (fun q => { q with usage := q.usage + 1 })

/-! ## Firing (R23 to R35) -/

/-- What brings a firing about (R27). -/
inductive FiringEvent where
  | advance | start | step | arrival
deriving DecidableEq, Repr

/-- The cause a firing reports, from the event and the entry (R27). -/
def causeOf (ev : FiringEvent) (late : Option LateMark) (t due : Tick) : Cause :=
  match late with
  | some .past => .past
  | some .stepped => .stepped
  | none =>
    match ev with
    | .step => .stepped
    | .advance => .onTime
    | .start | .arrival => if isPast t due then .past else .onTime

/-- The lateness of a firing: how far T stands beyond the due (R33). -/
def lateness (t due : Tick) : Nat := (-(distance t due)).toNat

/-- The grid points passed over without a firing, k − 1 of R33. -/
def missedPoints (t due : Tick) (period : BitVec 32) : Nat := lateness t due / period.toNat

/-- The first grid point strictly ahead of T (R33). -/
def nextGridPoint (t due : Tick) (period : BitVec 32) : Tick :=
  due + BitVec.ofNat 48 ((missedPoints t due period + 1) * period.toNat)

/-- How a firing ends for its entry (R32 to R34): the missed count of the note, and the entry's new
due and count when it is re-armed, none when it is freed. -/
def disposition (e : Entry) (t due : Tick) : BitVec 16 × Option (Tick × Option (BitVec 16)) :=
  match e.period with
  | none => (0, none)
  | some p =>
    let missed := BitVec.ofNat 16 (min (missedPoints t due p) 65535)
    match e.count with
    | none => (missed, some (nextGridPoint t due p, none))
    | some c =>
      if c.toNat ≤ 1 then (missed, none) else (missed, some (nextGridPoint t due p, some (c - 1)))

/-- The note part of a firing (R29, R30). -/
def firingNote (i : SlotId) (ev : FiringEvent) (e : Entry) (due : Tick) (late : Option LateMark)
    (s : State) : State :=
  if e.notify then
    sendNote e.owner (.fired (s.handle i) e.tag due s.t (causeOf ev late s.t due)
      (disposition e s.t due).1 (disposition e s.t due).2.isNone) s
  else s

/-- The line action part of a firing (R29, R31, R91). -/
def firingAction (e : Entry) (s : State) : State :=
  match e.action with
  | none => s
  | some a => s.modLine a.line a.op.apply

/-- The disposition part of a firing (R29, R32 to R34). -/
def firingDisposition (i : SlotId) (e : Entry) (due : Tick) (s : State) : State :=
  match (disposition e s.t due).2 with
  | none => freeSlot i s
  | some (due', count') => joinQueue i { e with count := count' } due' none s

/-- One firing of the ARMED entry in a slot: its note, its line action, its disposition (R29). -/
def fire (ev : FiringEvent) (s : State) (i : SlotId) : State :=
  match s.entry i with
  | none => s
  | some e =>
    match e.place with
    | .armed due _ late =>
      firingDisposition i e due (firingAction e (firingNote i ev e due late s))
    | _ => s

/-- Several firings at one event, one after another (R35). -/
def fireAll (ev : FiringEvent) (slots : List SlotId) (s : State) : State :=
  slots.foldl (fire ev) s

/-- Every reached entry fires, in queue order (R23). -/
def fireReached (ev : FiringEvent) (s : State) : State := fireAll ev s.reachedInOrder s

/-- The late mark of an entry that arrives while the timeline is not RUNNING (R26). -/
def arrivalMark (t due : Tick) (late : Option LateMark) : Option LateMark :=
  match late with
  | some m => some m
  | none => if isPast t due then some .past else none

/-- An entry arrives in the queue by ARM, MODIFY or RESUME: it joins, and if its due is reached it
fires at once while the timeline is RUNNING and is marked while it is not (R26). -/
def arrive (i : SlotId) (e : Entry) (due : Tick) (late : Option LateMark) (s : State) : State :=
  if s.running then
    let s' := joinQueue i e due late s
    if isReached s.t due then fire .arrival s' i else s'
  else joinQueue i e due (arrivalMark s.t due late) s

/-! ## The authority (R145, R146) -/

/-- The holder gives the token up: it passes to the head of the wait list, which is sent an AUTHORITY
note, or to no port when the list is empty (R145). -/
def handOver (previous : Port) (cause : HandoverCause) (s : State) : State :=
  match s.authority.waitList with
  | [] => { s with authority := ⟨none, []⟩ }
  | next :: rest => sendNote next (.authority previous cause) { s with authority := ⟨some next, rest⟩ }

/-- A port leaves the wait list (R144, R146). -/
def leaveWaitList (p : Port) (s : State) : State :=
  { s with authority := { s.authority with waitList := s.authority.waitList.filter (fun q => q != p) } }

/-! ## Capture line configuration (R97, R107, R112) -/

/-- A capture line that loses its owner: defaults, no window, suppressed count 0. -/
def CaptureLine.disowned (r : CaptureLine) : CaptureLine :=
  { r with owner := none, edgeSelect := .off, holdoff := 0, mode := .all, window := none, suppressed := 0 }

/-! ## Teardown (R137) -/

/-- Whether a slot holds an entry of a port. -/
def State.ownsSlot (s : State) (p : Port) (i : SlotId) : Bool :=
  match s.entry i with
  | some e => e.owner == p
  | none => false

/-- The slot store, queue and allocation part of a teardown (R42, R68, R79). -/
def teardownSlots (p : Port) (s : State) : State :=
  { s with
    slots := each (fun i sl => if s.ownsSlot p i then sl.freed else sl) s.slots
    queue := s.queue.filter (fun i => !s.ownsSlot p i)
    quotas := edit s.quotas p (fun q => { q with usage := 0 }) }

/-- The capture unit's part, for one line; `mine` says which slots are the port's (R112). -/
def CaptureLine.teardown (p : Port) (mine : SlotId → Bool) (r : CaptureLine) : CaptureLine :=
  let r' := if r.owner = some p then r.disowned else r
  { r' with
    waiting := r'.waiting.filter (fun i => !mine i)
    subscribers := edit r'.subscribers p (fun _ => false) }

/-- The trigger output unit's part, for one line (R94). -/
def TriggerLine.teardown (p : Port) (l : TriggerLine) : TriggerLine :=
  if l.owner = some p then { l.rest with owner := none } else l

/-- The authority arbiter's part (R146). -/
def teardownAuthority (p : Port) (s : State) : State :=
  if s.authority.holder = some p then handOver p .sessionEnd s else leaveWaitList p s

/-- The teardown of a port's session in every block but its port engine (R137). -/
def teardown (p : Port) (s : State) : State :=
  let s1 : State :=
    { teardownSlots p s with
      captures := each (fun _ r => r.teardown p (s.ownsSlot p)) s.captures
      lines := each (fun _ l => l.teardown p) s.lines }
  teardownAuthority p (s1.modNotes p (fun _ => NoteQueue.reset))

end Sys2Proof.Machine
end

