-- ==== Sys2Proof/Machine/Operands.lean ====
section
/-! DEFINITION. The argument forms a host sends and the data layouts the controller sends
(spec/11_formats.md). -/

namespace Sys2Proof.Machine

/-! ## Fields the controller sends (R166) -/

/-- A bit field in whole bytes, most significant byte first. -/
def be16 (x : BitVec 16) : List Byte := [x.extractLsb' 8 8, x.extractLsb' 0 8]

def be32 (x : BitVec 32) : List Byte :=
  [x.extractLsb' 24 8, x.extractLsb' 16 8, x.extractLsb' 8 8, x.extractLsb' 0 8]

def be48 (x : BitVec 48) : List Byte :=
  [x.extractLsb' 40 8, x.extractLsb' 32 8, x.extractLsb' 24 8, x.extractLsb' 16 8,
   x.extractLsb' 8 8, x.extractLsb' 0 8]

/-- A count in two bytes. -/
def nat16 (n : Nat) : List Byte := be16 (BitVec.ofNat 16 n)

/-- A number in one byte. -/
def nat8 (n : Nat) : Byte := BitVec.ofNat 8 n

/-- A flag as 00h or 01h. -/
def flagByte (b : Bool) : Byte := if b then 1 else 0

/-- A byte from its flags, each given with its bit's value. -/
def bits (flags : List (Bool × Byte)) : Byte :=
  flags.foldl (fun acc f => if f.1 then acc ||| f.2 else acc) 0

/-- A port or none: 00h to 03h, and FFh for none (R166). -/
def portByte : Option Port → Byte
  | none => 0xFF
  | some p => nat8 p.val

/-! ## Codes of named values (R167, R169 to R172) -/

def Status.code : Status → Byte
  | .ok => 0x00 | .pending => 0x01
  | .badFrame => 0x10 | .badCommand => 0x11
  | .notAttached => 0x20 | .expired => 0x21 | .notAuthority => 0x22
  | .badArgument => 0x30 | .range => 0x31 | .past => 0x32
  | .overCeiling => 0x40 | .noSlot => 0x41 | .quotaConflict => 0x42
  | .stale => 0x50 | .notOwner => 0x51 | .wrongState => 0x52 | .owned => 0x53 | .inUse => 0x54

def TimelineState.code : TimelineState → Byte
  | .idle => 0 | .running => 1 | .halted => 2

def SessionState.code : SessionState → Byte
  | .detached => 0 | .attached => 1 | .expired => 2

def EndCause.code : EndCause → Byte
  | .none => 0 | .detach => 1 | .leaseExpired => 2 | .deviceReset => 3

def ResetCause.code : ResetCause → Byte
  | .powerOn => 0 | .resetPin => 1

/-- Entry states: ARMED, WAITING, PAUSED (R170). -/
def Place.code : Place → Byte
  | .armed _ _ _ => 1 | .waiting _ _ => 2 | .paused _ _ => 3

def LineOp.code : LineOp → Byte
  | .set => 0 | .clear => 1 | .toggle => 2 | .pulse _ => 3

/-- The width of a PULSE, 0 for the other operations (R45). -/
def LineOp.width : LineOp → BitVec 16
  | .pulse w => w
  | _ => 0

def EdgeSelect.code : EdgeSelect → Byte
  | .off => 0 | .rise => 1 | .fall => 2 | .both => 3

def ReleaseMode.code : ReleaseMode → Byte
  | .all => 0 | .oldest => 1

def Cause.code : Cause → Byte
  | .onTime => 0 | .past => 1 | .stepped => 2

def lateCode : Option LateMark → Byte
  | none => 0 | some .past => 1 | some .stepped => 2

def TimelineOp.code : TimelineOp → Byte
  | .start => 1 | .halt => 2 | .step => 3 | .slewDone => 4 | .slewCut => 5

def HandoverCause.code : HandoverCause → Byte
  | .release => 0 | .sessionEnd => 1

/-- The line byte: idle level in bit 0, level in bit 1 (R170). -/
def TriggerLine.lineByte (l : TriggerLine) : Byte :=
  bits [(l.idleLevel == .high, 1), (l.level == .active, 2)]

/-- Pulse cycles left, 0 with no pulse record (R93). -/
def TriggerLine.pulseLeft (l : TriggerLine) : BitVec 16 := l.pulse.getD 0

/-- Cycles left of the holdoff window, 0 when none is open (R110). -/
def CaptureLine.windowLeft (r : CaptureLine) : BitVec 16 := r.window.getD 0

/-! ## Note records (R171) -/

/-- A record filled with zero bytes to its 20 bytes. -/
def fill20 (bytes : List Byte) : List Byte := bytes ++ List.replicate (20 - bytes.length) 0

/-- The 20 bytes of a note record (R171). -/
def Note.bytes : Note → List Byte
  | .fired handle tag due firedAt cause missed final =>
    [0x01, cause.code ||| (if final then 0x80 else 0)] ++ be16 handle ++ be16 tag ++ be48 due
      ++ be48 firedAt ++ be16 missed
  | .capture line edge timestamp notRunning suppressed =>
    fill20 ([0x02, nat8 line.val, bits [(edge == .fall, 1), (notRunning, 0x80)], suppressed]
      ++ be48 timestamp)
  | .timeline op before second => fill20 ([0x03, op.code] ++ be48 before ++ be48 second)
  | .authority previous cause => fill20 [0x04, 0x01, nat8 previous.val, cause.code]
  | .loss count => fill20 ([0x05, 0x00] ++ be16 count)

/-! ## The entry descriptor (R64, R172) -/

/-- The line action bytes of a descriptor: line, operation, width, all 0 without an action. -/
def actionBytes : Option LineAction → List Byte
  | none => [0, 0, 0, 0]
  | some a => [nat8 a.line.val, a.op.code] ++ be16 a.op.width

/-- Bytes 6 to 26 of a descriptor: due, arm sequence, remaining, capture line and offset, those
absent in the entry's state being 0. -/
def Place.descriptorBytes : Place → List Byte
  | .armed due seq _ => be48 due ++ be32 seq ++ be48 0 ++ [0] ++ be32 0
  | .waiting line offset => be48 0 ++ be32 0 ++ be48 0 ++ [nat8 line.val] ++ be32 offset
  | .paused remaining _ => be48 0 ++ be32 0 ++ be48 remaining ++ [0] ++ be32 0

/-- The late mark of an entry; WAITING entries carry none (R45). -/
def Place.late : Place → Option LateMark
  | .armed _ _ late => late
  | .waiting _ _ => none
  | .paused _ late => late

/-- The 38 bytes of an entry descriptor (R172). -/
def Entry.descriptor (e : Entry) (handle : BitVec 16) : List Byte :=
  be16 handle
    ++ [e.place.code,
        bits [(e.anchor == .relative, 0x01), (e.notify, 0x02), (e.period.isSome, 0x10),
              (e.count.isSome, 0x20), (e.action.isSome, 0x40)]]
    ++ be16 e.tag ++ e.place.descriptorBytes ++ be32 (e.period.getD 0) ++ be16 (e.count.getD 0)
    ++ actionBytes e.action ++ [lateCode e.place.late]

/-! ## The allocation summary and the STATUS block -/

/-- The allocation summary: reserves, ceilings, usages, S and the shared use (R76, R170). -/
def allocationSummary (s : State) : List Byte :=
  allPorts.flatMap (fun p => nat16 (s.quota p).reserve)
    ++ allPorts.flatMap (fun p => nat16 (s.quota p).ceiling)
    ++ allPorts.flatMap (fun p => nat16 (s.quota p).usage)
    ++ nat16 s.poolSize ++ nat16 s.sharedUse

/-- A port's place in the wait list counted from the head, 1 to 3, or 0 when it does not wait
(R142). -/
def State.waitPosition (s : State) (p : Port) : Nat :=
  if s.authority.waitList.contains p then s.authority.waitList.idxOf p + 1 else 0

/-- The 23 bytes of the STATUS block of a port; `remaining` is lease remaining as it stood before the
frame's renewal (R139, R172). The block tells of the timeline its state alone, although R16 has
STATUS report a held slew like a running one: the model follows the tables of R139 and R172, which
give a slew no field (DESIGN CHOICE, log entry 20). -/
def statusBlock (p : Port) (remaining : BitVec 16) (s : State) : List Byte :=
  let ss := s.session p
  [ss.state.code, ss.epoch] ++ be16 ss.leasePeriod ++ be16 remaining
    ++ [ss.lastEnd.code, s.resetCause.code]
    ++ nat16 (s.quota p).reserve ++ nat16 (s.quota p).ceiling ++ nat16 (s.quota p).usage
    ++ nat16 s.poolSize ++ nat16 s.sharedUse
    ++ [nat8 (s.noteQueue p).records.length, flagByte (s.noteQueue p).attention,
        portByte s.authority.holder, nat8 (s.waitPosition p), s.timeline.state.code]

/-! ## Operands a host sends -/

/-- A number below `n` read from a byte, none where it is out of range. -/
def finOf (n : Nat) (b : Byte) : Option (Fin n) :=
  if h : b.toNat < n then some ⟨b.toNat, h⟩ else none

/-- An operation, none for a code that names none and for a PULSE of width 0 (R52, R92, R169). -/
def decodeOp (op : Byte) (width : BitVec 16) : Option LineOp :=
  if op = 0 then some .set
  else if op = 1 then some .clear
  else if op = 2 then some .toggle
  else if op = 3 && width != 0 then some (.pulse width)
  else none

/-- A line action, none where its line or its operation is out of range (R52, step 1). -/
def decodeAction (line op : Byte) (width : BitVec 16) : Option LineAction :=
  match finOf 16 line, decodeOp op width with
  | some l, some o => some ⟨l, o⟩
  | _, _ => none

/-- A two-byte argument. -/
def arg16 (args : List Byte) (off : Nat) : BitVec 16 := BitVec.ofNat 16 (argNat args off 2)

/-- A four-byte argument. -/
def arg32 (args : List Byte) (off : Nat) : BitVec 32 := BitVec.ofNat 32 (argNat args off 4)

/-- A six-byte argument. -/
def arg48 (args : List Byte) (off : Nat) : Tick := BitVec.ofNat 48 (argNat args off 6)

/-- The optional fields of ARM and ARM_ON_CAPTURE as sent (R51, R55): a line action is given by its
line byte, its operation byte and its width. -/
structure EntryOptions where
  anchor : Anchor
  notify : Bool
  period : Option (BitVec 32)
  count : Option (BitVec 16)
  line : Option (Byte × Byte × BitVec 16)
deriving DecidableEq, Repr

/-- The optional fields that follow the first `off` argument bytes, by the flags byte (R51, R169). -/
def entryOptions (flags : Byte) (args : List Byte) (off : Nat) : EntryOptions :=
  let countAt := off + (if flags.getLsbD 4 then 4 else 0)
  let lineAt := countAt + (if flags.getLsbD 5 then 2 else 0)
  { anchor := if flags.getLsbD 0 then .relative else .absolute
    notify := flags.getLsbD 1
    period := if flags.getLsbD 4 then some (arg32 args off) else none
    count := if flags.getLsbD 5 then some (arg16 args countAt) else none
    line :=
      if flags.getLsbD 6 then
        some (argByte args lineAt, argByte args (lineAt + 1), arg16 args (lineAt + 2))
      else none }

/-- The line action the options ask for, once they have passed R52 step 1. -/
def EntryOptions.action (o : EntryOptions) : Option LineAction :=
  o.line.bind (fun a => decodeAction a.1 a.2.1 a.2.2)

/-- R52 step 1: a count without a period, a period of 0, a count of 0, neither notify nor a line
action, or a line action out of range. -/
def EntryOptions.bad (o : EntryOptions) : Bool :=
  (o.count.isSome && o.period.isNone) || o.period == some 0 || o.count == some 0
    || (!o.notify && o.line.isNone) || (o.line.isSome && o.action.isNone)

/-- R52 step 2: whether the line action, if any, names a line the port does not own. -/
def EntryOptions.notOwned (o : EntryOptions) (p : Port) (s : State) : Bool :=
  match o.action with
  | none => false
  | some a => (s.line a.line).owner != some p

/-- The entry that ARM or ARM_ON_CAPTURE makes for a port (R54 step 2, R56). -/
def EntryOptions.entry (o : EntryOptions) (p : Port) (tag : BitVec 16) (place : Place) : Entry :=
  { owner := p, tag := tag, anchor := o.anchor, notify := o.notify, period := o.period,
    count := o.count, action := o.action, place := place }

/-- The due a host asks for, none where it lies outside the horizon (R53): a timeline value for
basis AT, an unsigned offset from T for basis AFTER. -/
def placeDue (t : Tick) (after : Bool) (value : Tick) : Option Tick :=
  if after then
    if (value.toNat : Int) < Config.horizon then some (t + value) else none
  else if withinHorizon (distance t value) then some value
  else none

end Sys2Proof.Machine
end

