-- ==== Sys2Proof/Machine/Flags.lean ====
section
/-! DEFINITION. The flag bytes of a port: the port status byte and the flags byte of a response; the
bytes of a response; the level of HSDO. -/

namespace Sys2Proof.Machine

/-- Whether a port's queue holds a record, ordinary or LOSS (R152). -/
def State.notesPending (s : State) (p : Port) : Bool := !(s.noteQueue p).records.isEmpty

/-- Whether a port holds the time authority (R152). -/
def State.holds (s : State) (p : Port) : Bool := s.authority.holder == some p

/-- The port status byte: notes pending in bit 7, session state in bits 5 and 4, holder in bit 3
(R152, R167). -/
def statusByte (s : State) (p : Port) : Byte :=
  bits [(s.notesPending p, 0x80), (s.holds p, 0x08)] ||| ((s.session p).state.code <<< 4)

/-- The flags byte of a response: replay in bit 7, notes pending in bit 6, holder in bit 5 (R156,
R167). -/
def Response.flags (r : Response) : Byte :=
  bits [(r.replay, 0x80), (r.notesPending, 0x40), (r.holder, 0x20)]

/-- A response before its check byte (R156). -/
def Response.body (r : Response) : List Byte :=
  [r.status.code, r.flags, nat8 r.data.length] ++ r.data

/-- The bytes of a response in the order they are shifted out (R156). -/
def Response.bytes (r : Response) : List Byte := r.body ++ [crc8 r.body]

/-- A response with the flags that report the state it is built from (R156). -/
def buildResponse (p : Port) (status : Status) (data : List Byte) (s : State) : Response :=
  { status := status, replay := false, notesPending := s.notesPending p, holder := s.holds p,
    data := data }

/-- What HSDO is sending in the present byte time: the copy of the status byte in RECEIVING, the
response byte that is next in ANSWERING, FFh in DRAINING; not driven in IDLE (R151). -/
def hsdo (s : State) (p : Port) : Option Byte :=
  match (s.port p).receiver with
  | .idle => none
  | .receiving _ copy => some copy
  | .answering r sent => some (r.bytes.getD sent 0xFF)
  | .draining => some 0xFF

end Sys2Proof.Machine
end

