-- ==== Sys2Proof/Machine/Take.lean ====
section
/-! DEFINITION. The take of a frame: the check byte, the replay decision, the general order of
checks, lease renewal, the response and the replay record (spec/10_host_port_frames.md). Every host
command goes through `frameArrives`. -/

namespace Sys2Proof.Machine

/-- A command carried out: its status (OK or PENDING), its response data and the state it leaves. -/
structure Done where
  status : Status
  data : List Byte
  state : State

/-- A command refused with a status, which has no effect on any block (R162), or carried out. -/
abbrev Verdict := Except Status Done

/-- A command carried out with status OK. -/
def done (data : List Byte) (s : State) : Verdict := .ok ⟨.ok, data, s⟩

/-- A load of the lease (R132). -/
def Session.loadLease (ss : Session) : Session :=
  { ss with leaseRemaining := ss.leasePeriod, unitPhase := 0 }

/-- Whether a session's lease is counted: ATTACHED with a lease period of 1 or more (R132). -/
def Session.counting (ss : Session) : Bool := ss.state == .attached && ss.leasePeriod != 0

/-- The renewal of a port's lease at a take or a replay (R133). -/
def renewLease (p : Port) (s : State) : State :=
  if (s.session p).counting then s.modSession p Session.loadLease else s

/-- The guarded commands (R148). -/
def guarded : Command → Bool
  | .start | .halt | .step | .slew | .setReserves | .setCeiling => true
  | _ => false

/-- Session admission: the status a command is refused with, none when it is admitted (R136). -/
def refusedBy (c : Command) (st : SessionState) : Option Status :=
  match st, c with
  | .attached, _ => none
  | _, .status => none
  | _, .attach => none
  | _, .readTime => none
  | _, .readLines => none
  | .expired, .detach => none
  | .detached, _ => some .notAttached
  | .expired, _ => some .expired

/-- Steps 2 to 4 of the general order: code and length, session admission, authority (R162). -/
def generalCheck (c : Command) (p : Port) (args : List Byte) (s : State) : Option Status :=
  if !c.lengthFits args then some .badCommand
  else
    match refusedBy c (s.session p).state with
    | some st => some st
    | none => if guarded c && !s.holds p then some .notAuthority else none

/-- Steps 2 to 5 of the general order for a known code; `run` makes the command's own checks and
carries it out (R162). -/
def judge (c : Command) (p : Port) (args : List Byte) (run : State → Verdict) (s : State) : Verdict :=
  match generalCheck c p args s with
  | some st => .error st
  | none => run s

/-- The receiver of a port starts to answer (R154, R155). -/
def startAnswer (p : Port) (r : Response) (s : State) : State :=
  s.modPort p (fun e => { e with receiver := .answering r 0 })

/-- The replay record that a take writes (R159). -/
def replayRecord (seq check : Byte) (r : Response) : ReplayRecord :=
  ⟨if seq = 0 then none else some seq, some check, some r⟩

/-- The end of a take: the response reports the state that the take left, the replay record is
rewritten and the receiver answers (R155, R156, R159). -/
def finish (p : Port) (seq check : Byte) (status : Status) (data : List Byte) (s : State) : State :=
  let r := buildResponse p status data s
  startAnswer p r (s.modPort p (fun e => { e with replay := replayRecord seq check r }))

/-- A take (R155): the lease is renewed, the command is decided, and the take is finished. A refused
command leaves every block as the renewal left it and carries no data (R162). That the renewal comes
before the command's own effect is the model's choice where R130 is silent: an ATTACH with lease 0
in a session with a lease of 1 or more leaves the unit phase at 0, as the renewal has set it (DESIGN
CHOICE, log entry 13). -/
def takeFrame (p : Port) (seq check : Byte) (verdict : State → Verdict) (s : State) : State :=
  let s' := renewLease p s
  match verdict s' with
  | .error st => finish p seq check st [] s'
  | .ok d => finish p seq check d.status d.data d.state

/-- The stored response that a good frame is a replay of, none when the frame is a take (R155). -/
def replayOf (e : PortEngine) (seq check : Byte) : Option Response :=
  if seq != 0 && e.replay.lastSeq == some seq && e.replay.lastCheck == some check then
    e.replay.stored
  else none

/-- A framing error: the receiver answers BAD_FRAME and nothing else changes (R153, R154). -/
def badFrameAnswer (p : Port) (s : State) : State :=
  startAnswer p (buildResponse p .badFrame [] s) s

/-- A stored response sent again with the replay flag set, and the lease renewed (R155, R159). -/
def resend (p : Port) (r : Response) (s : State) : State :=
  startAnswer p { r with replay := true } (renewLease p s)

/-- The check byte of a frame arrives: framing error, replay or take (R154, R155). -/
def decideFrame (p : Port) (code seq : Byte) (args : List Byte) (check : Byte)
    (verdict : State → Verdict) (s : State) : State :=
  if frameCheck code seq args != check then badFrameAnswer p s
  else
    match replayOf (s.port p) seq check with
    | some r => resend p r s
    | none => takeFrame p seq check verdict s

/-- The rest of a frame arrives on a port, up to its check byte. It reaches a receiver that is
RECEIVING bytes this frame begins with; any other receiver reads none of it (R151). A length of 25
or more is a framing error at the length byte (R153). -/
def frameArrives (p : Port) (code seq : Byte) (args : List Byte) (check : Byte)
    (verdict : State → Verdict) (s : State) : Result :=
  if 255 < args.length then .fault .noSuchFrame
  else if s.held then .next s
  else
    match (s.port p).receiver with
    | .receiving bytes _ =>
      if bytes.isPrefixOf (frameBody code seq args) then
        if Config.maxArgs < args.length then .next (badFrameAnswer p s)
        else .next (decideFrame p code seq args check verdict s)
      else .next s
    | _ => .next s

/-- The row of a known command: its good frame arrives. -/
def commandRow (c : Command) (p : Port) (seq : Byte) (args : List Byte) (run : State → Verdict)
    (s : State) : Result :=
  frameArrives p c.code seq args (frameCheck c.code seq args) (judge c p args run) s

end Sys2Proof.Machine
end

