-- ==== Sys2Proof/Machine/Session.lean ====
section
/-! DEFINITION. Sessions and leases: STATUS, ATTACH, DETACH, and the lease's count
(spec/08_sessions_and_leases.md). -/

namespace Sys2Proof.Machine

/-- STATUS (R139). `remaining` is lease remaining as it stood before the frame's renewal. -/
def statusCommand (p : Port) (remaining : BitVec 16) (s : State) : Verdict :=
  done (statusBlock p remaining s) s

def execStatus (p : Port) (seq : Byte) (args : List Byte) (s : State) : Result :=
  commandRow .status p seq args (statusCommand p (s.session p).leaseRemaining) s

/-- The session record when a new session begins (R129). -/
def Session.begin (lease : BitVec 16) (ss : Session) : Session :=
  { ss with
    state := .attached
    epoch := ss.epoch + 1
    leasePeriod := lease
    leaseRemaining := lease
    unitPhase := if lease = 0 then ss.unitPhase else 0 }

/-- The session record when ATTACH replaces the lease within a session (R130). A lease of 1 or more
is loaded (R132); a lease of 0 is not, and the unit phase stays as the take's renewal has left it,
which R130 leaves open (DESIGN CHOICE, log entry 13). -/
def Session.replaceLease (lease : BitVec 16) (ss : Session) : Session :=
  { ss with
    leasePeriod := lease
    leaseRemaining := lease
    unitPhase := if lease = 0 then ss.unitPhase else 0 }

/-- ATTACH (R129, R130). -/
def attachCommand (p : Port) (args : List Byte) (s : State) : Verdict :=
  let lease := arg16 args 0
  let ss := s.session p
  if Config.maxLease < lease.toNat then .error .badArgument
  else if ss.state = .attached then
    done ([ss.state.code, ss.epoch] ++ be16 lease) (s.modSession p (Session.replaceLease lease))
  else
    done ([ss.state.code, ss.epoch + 1] ++ be16 lease)
      ((s.modSession p (Session.begin lease)).modNotes p (fun q => { q with attention := true }))

def execAttach (p : Port) (seq : Byte) (args : List Byte) (s : State) : Result :=
  commandRow .attach p seq args (attachCommand p args) s

/-- The session record after its session is torn down (R131, R134). -/
def Session.ended (state : SessionState) (cause : EndCause) (ss : Session) : Session :=
  { ss with state := state, lastEnd := cause, leaseRemaining := 0, unitPhase := 0 }

/-- DETACH (R131). In DETACHED it is refused at session admission (R136). -/
def detachCommand (p : Port) (s : State) : Verdict :=
  let ss := s.session p
  match ss.state with
  | .attached =>
    done ([ss.state.code, ss.epoch] ++ nat16 (s.quota p).usage)
      ((teardown p s).modSession p (Session.ended .detached .detach))
  | .expired =>
    done ([ss.state.code, ss.epoch] ++ nat16 0)
      (s.modSession p (fun ss => { ss with state := .detached }))
  | .detached => .error .notAttached

def execDetach (p : Port) (seq : Byte) (args : List Byte) (s : State) : Result :=
  commandRow .detach p seq args (detachCommand p) s

/-! ## The lease's count -/

/-- The expiry of a port's lease: teardown, then EXPIRED (R134). -/
def expireLease (p : Port) (s : State) : State :=
  (teardown p s).modSession p (Session.ended .expired .leaseExpired)

/-- Whether the next counted cycle of a port is a lease unit boundary (R132). -/
def Session.atBoundary (ss : Session) : Bool := ss.counting && ss.unitPhase == Config.lastPhase

/-- Whether that boundary is the lease's expiry (R132). -/
def Session.atExpiry (ss : Session) : Bool := ss.atBoundary && ss.leaseRemaining.toNat ≤ 1

/-- A port engine's count of one REFCLK cycle (R132, R134). -/
def countLease (p : Port) (s : State) : State :=
  let ss := s.session p
  if ss.atExpiry then expireLease p s
  else if ss.atBoundary then
    s.modSession p (fun ss => { ss with unitPhase := 0, leaseRemaining := ss.leaseRemaining - 1 })
  else if ss.counting then s.modSession p (fun ss => { ss with unitPhase := ss.unitPhase + 1 })
  else s

/-- The place of a count once its own row has taken it: ahead of the coming cycle, or in step when
the last cycle had held it back. -/
def Turn.taken : Turn → Turn
  | .behind => .inStep
  | _ => .ahead

/-- A port engine's lease count, with its place set. -/
def State.setLeaseTurn (s : State) (p : Port) (t : Turn) : State :=
  s.modPort p (fun e => { e with turn := t })

/-- A port's lease count of a cycle taken as an event of its own (R132, R135). -/
def ownLeaseCount (p : Port) (s : State) : State :=
  countLease p (s.setLeaseTurn p (s.port p).turn.taken)

/-- LEASE_UNIT_BOUNDARY (R132): the count that brings the unit phase to 65,536. Where the port's next
count is no boundary, or has been taken, the event cannot occur and nothing changes. -/
def execLeaseUnitBoundary (p : Port) (s : State) : Result :=
  if s.held || (s.port p).turn == .ahead || !(s.session p).atBoundary then .next s
  else .next (ownLeaseCount p s)

/-- LEASE_EXPIRY (R134): the boundary that brings lease remaining to zero. Where the port's next
count is no expiry, or has been taken, the event cannot occur and nothing changes. -/
def execLeaseExpiry (p : Port) (s : State) : Result :=
  if s.held || (s.port p).turn == .ahead || !(s.session p).atExpiry then .next s
  else .next (ownLeaseCount p s)

end Sys2Proof.Machine
end

