-- ==== Sys2Proof/Machine/Captures.lean ====
section
/-! DEFINITION. The capture lines: edges, holdoff windows and release, and CLAIM_CAPTURE,
RELEASE_CAPTURE, CONFIGURE_CAPTURE, SUBSCRIBE, UNSUBSCRIBE, READ_CAPTURE
(spec/06_capture_inputs_and_triggered_arming.md). -/

namespace Sys2Proof.Machine

/-! ## Windows and edges -/

/-- A line's window count of one REFCLK cycle: the count that reaches zero closes the window (R99). -/
def CaptureLine.countWindow (r : CaptureLine) : CaptureLine :=
  match r.window with
  | none => r
  | some w => { r with window := if w.toNat ≤ 1 then none else some (w - 1) }

/-- Whether an edge select accepts an edge (R100). -/
def EdgeSelect.selects : EdgeSelect → Edge → Bool
  | .off, _ => false
  | .rise, e => e == .rise
  | .fall, e => e == .fall
  | .both, _ => true

/-- The edge between two successive samples of a line, none when they are equal or there is no
earlier one (R98). -/
def edgeBetween (earlier : Option Level) (level : Level) : Option Edge :=
  match earlier, level with
  | some .low, .high => some .rise
  | some .high, .low => some .fall
  | _, _ => none

/-- The slot side of a release: the WAITING entry joins the queue at the timestamp plus its offset
(R57, R41). -/
def releaseEntry (timestamp : Tick) (s : State) (i : SlotId) : State :=
  match s.entry i with
  | none => s
  | some e =>
    match e.place with
    | .waiting _ offset => joinQueue i e (timestamp + offset.setWidth 48) none s
    | _ => s

/-- Several entries are released at an edge: all join in the order delivered, then, while the
timeline is RUNNING, those at distance zero fire in that order, which is queue order (R41, R104). -/
def releaseEntries (timestamp : Tick) (slots : List SlotId) (s : State) : State :=
  let s' := slots.foldl (releaseEntry timestamp) s
  if s'.running then fireAll .arrival (slots.filter (fun i => isReached s'.t (s'.due i))) s' else s'

/-- How many entries of a waiting list an accepted edge releases (R104). -/
def ReleaseMode.releases : ReleaseMode → List SlotId → Nat
  | .all, waiting => waiting.length
  | .oldest, _ => 1

/-- The line's own record after an accepted edge: last capture, window, count (R101, steps 2, 3 and
5) and the waiting list less the released entries. -/
def CaptureLine.accepted (edge : Edge) (timestamp : Tick) (notRunning : Bool) (r : CaptureLine) :
    CaptureLine :=
  { r with
    last := some ⟨timestamp, edge, notRunning⟩
    window := if r.holdoff = 0 then r.window else some r.holdoff
    suppressed := 0
    waiting := r.waiting.drop (r.mode.releases r.waiting) }

/-- An accepted edge: the record, the CAPTURE notes, the release (R101). -/
def acceptEdge (c : CaptureId) (edge : Edge) (s : State) : State :=
  let r := s.cap c
  let s1 := s.modCap c (CaptureLine.accepted edge s.t (!s.running))
  let s2 := sendNoteTo (fun p => peek r.subscribers p)
    (.capture c edge s.t (!s.running) r.suppressed) s1
  releaseEntries s.t (r.waiting.take (r.mode.releases r.waiting)) s2

/-- An edge a line presents: ignored, suppressed or accepted (R100). -/
def takeEdge (c : CaptureId) (edge : Edge) (s : State) : State :=
  let r := s.cap c
  if !r.edgeSelect.selects edge then s
  else if r.window.isSome then s.modCap c (fun r => { r with suppressed := saturate r.suppressed })
  else acceptEdge c edge s

/-- The count of a cycle for every open window (R98, R99). -/
def countWindows (s : State) : State :=
  { s with captures := each (fun _ r => r.countWindow) s.captures }

/-- The sample of one line at a cycle, and the edge it presents (R98). A line sampled a second time
at the same level presents none. -/
def sampleLine (levels : Vector Level 8) (s : State) (c : CaptureId) : State :=
  let level := peek levels c
  let s' := s.modCap c (fun r => { r with pin := level, sample := some level })
  match edgeBetween (s.cap c).sample level with
  | none => s'
  | some edge => takeEdge c edge s'

/-- The capture unit's event of one REFCLK cycle, one for all eight lines: the windows, then the
samples of the pins with the edges they present (R98). The edges are taken in the order `order`,
those of lines it leaves out after it in line order; which order the unit follows is left open
(log entry 9). -/
def captureEvent (levels : Vector Level 8) (order : List CaptureId) (s : State) : State :=
  (order ++ List.finRange 8).foldl (sampleLine levels) (countWindows s)

/-- The capture unit's event of a cycle at which no pin has changed since its last sample: the
windows are counted and no line presents an edge. The first sample after a reset is the pin's level
(R98). -/
def sampleUnchanged (s : State) : State :=
  { s with captures := each (fun _ r => { r.countWindow with sample := some r.pin }) s.captures }

/-- CAPTURE_EDGE (R98, R100, R101). While RST_N is low the pins may change but no sample is taken
(R113). An early event is taken before its cycle's row, once; one that is not early is the event
that the last cycle held back (R102). Where no such event is to be taken, it cannot occur and
nothing changes (DESIGN CHOICE, log entry 8). -/
def execCaptureEdge (levels : Vector Level 8) (order : List CaptureId) (early : Bool) (s : State) :
    Result :=
  if s.held then
    .next { s with captures := each (fun c r => { r with pin := peek levels c }) s.captures }
  else
    match s.captureTurn, early with
    | .inStep, true => .next (captureEvent levels order { s with captureTurn := .ahead })
    | .behind, false => .next (captureEvent levels order { s with captureTurn := .inStep })
    | _, _ => .next s

/-- HOLDOFF_WINDOW_CLOSE (R98, R99): the capture unit's event, with no pin changed, whose count
brings a line's window to zero: the one the last cycle held back, or else the coming cycle's. Where
that count closes no window of the line, or the event of the coming cycle has been taken, the event
cannot occur and nothing changes (DESIGN CHOICE, log entry 8). -/
def execHoldoffWindowClose (c : CaptureId) (s : State) : Result :=
  if s.held || s.captureTurn == .ahead || (s.cap c).window != some 1 then .next s
  else .next (sampleUnchanged { s with captureTurn := s.captureTurn.taken })

/-! ## Commands -/

/-- The owner and configuration bytes of a line (R106, R108, R170). -/
def CaptureLine.configBytes (r : CaptureLine) : List Byte :=
  [r.edgeSelect.code] ++ be16 r.holdoff ++ [r.mode.code]

/-- CLAIM_CAPTURE (R106). -/
def claimCaptureCommand (p : Port) (args : List Byte) (s : State) : Verdict :=
  match finOf 8 (argByte args 0) with
  | none => .error .badArgument
  | some c =>
    match (s.cap c).owner with
    | some q =>
      if q = p then done ([portByte (some p)] ++ (s.cap c).configBytes) s else .error .owned
    | none =>
      let s' := s.modCap c (fun r => { r with owner := some p })
      done ([portByte (s'.cap c).owner] ++ (s'.cap c).configBytes) s'

def execClaimCapture (p : Port) (seq : Byte) (args : List Byte) (s : State) : Result :=
  commandRow .claimCapture p seq args (claimCaptureCommand p args) s

/-- RELEASE_CAPTURE (R107). -/
def releaseCaptureCommand (p : Port) (args : List Byte) (s : State) : Verdict :=
  match finOf 8 (argByte args 0) with
  | none => .error .badArgument
  | some c =>
    if (s.cap c).owner != some p then .error .notOwner
    else done [] (s.modCap c CaptureLine.disowned)

def execReleaseCapture (p : Port) (seq : Byte) (args : List Byte) (s : State) : Result :=
  commandRow .releaseCapture p seq args (releaseCaptureCommand p args) s

/-- An edge select from its code (R108). -/
def decodeEdgeSelect (b : Byte) : Option EdgeSelect :=
  if b = 0 then some .off else if b = 1 then some .rise else if b = 2 then some .fall
  else if b = 3 then some .both else none

/-- A release mode from its code (R108). -/
def decodeMode (b : Byte) : Option ReleaseMode :=
  if b = 0 then some .all else if b = 1 then some .oldest else none

/-- CONFIGURE_CAPTURE (R108). -/
def configureCaptureCommand (p : Port) (args : List Byte) (s : State) : Verdict :=
  match finOf 8 (argByte args 0), decodeEdgeSelect (argByte args 1), decodeMode (argByte args 4) with
  | some c, some sel, some mode =>
    if (s.cap c).owner != some p then .error .notOwner
    else
      let s' := s.modCap c
        (fun r => { r with edgeSelect := sel, holdoff := arg16 args 2, mode := mode })
      done ((s'.cap c).configBytes ++ be16 (s'.cap c).windowLeft) s'
  | _, _, _ => .error .badArgument

def execConfigureCapture (p : Port) (seq : Byte) (args : List Byte) (s : State) : Result :=
  commandRow .configureCapture p seq args (configureCaptureCommand p args) s

/-- A port's membership of a line's subscriber set is set, and the response tells what it was
(R109). -/
def setSubscribed (p : Port) (c : CaptureId) (b : Bool) (s : State) : Verdict :=
  done [flagByte (peek (s.cap c).subscribers p)]
    (s.modCap c (fun r => { r with subscribers := edit r.subscribers p (fun _ => b) }))

/-- SUBSCRIBE (R109). -/
def subscribeCommand (p : Port) (args : List Byte) (s : State) : Verdict :=
  match finOf 8 (argByte args 0) with
  | none => .error .badArgument
  | some c => setSubscribed p c true s

def execSubscribe (p : Port) (seq : Byte) (args : List Byte) (s : State) : Result :=
  commandRow .subscribe p seq args (subscribeCommand p args) s

/-- UNSUBSCRIBE (R109). -/
def unsubscribeCommand (p : Port) (args : List Byte) (s : State) : Verdict :=
  match finOf 8 (argByte args 0) with
  | none => .error .badArgument
  | some c => setSubscribed p c false s

def execUnsubscribe (p : Port) (seq : Byte) (args : List Byte) (s : State) : Result :=
  commandRow .unsubscribe p seq args (unsubscribeCommand p args) s

/-- The capture byte and the timestamp of a READ_CAPTURE response (R170). -/
def lastCaptureBytes : Option LastCapture → Byte × Tick
  | none => (0, 0)
  | some k => (bits [(true, 0x80), (k.edge == .fall, 1), (k.notRunning, 2)], k.timestamp)

/-- The subscriber byte: bit n is set when port n subscribes (R170). -/
def subscriberByte (v : Vector Bool 4) : Byte :=
  bits [(peek v 0, 1), (peek v 1, 2), (peek v 2, 4), (peek v 3, 8)]

/-- READ_CAPTURE (R110). -/
def readCaptureCommand (args : List Byte) (s : State) : Verdict :=
  match finOf 8 (argByte args 0) with
  | none => .error .badArgument
  | some c =>
    let r := s.cap c
    done ([portByte r.owner] ++ r.configBytes ++ be16 r.windowLeft
      ++ [r.suppressed, (lastCaptureBytes r.last).1] ++ be48 (lastCaptureBytes r.last).2
      ++ nat16 r.waiting.length ++ [subscriberByte r.subscribers]) s

def execReadCapture (p : Port) (seq : Byte) (args : List Byte) (s : State) : Result :=
  commandRow .readCapture p seq args (readCaptureCommand args) s

end Sys2Proof.Machine
end

