-- ==== Sys2Proof/Machine/Timeline.lean ====
section
/-! DEFINITION. The timeline commands: READ_TIME, START, HALT, STEP, SLEW, and the advance of T with
its slew cycles (spec/01_the_timeline.md; the queue's part, spec/02_the_deadline_queue.md). -/

namespace Sys2Proof.Machine

/-- The state with another timeline record. -/
def State.withTimeline (s : State) (tl : Timeline) : State := { s with timeline := tl }

/-- READ_TIME (R17). -/
def readTimeCommand (s : State) : Verdict :=
  let tl := s.timeline
  done
    (be48 tl.t ++ [tl.state.code, flagByte tl.slew.isSome]
      ++ be32 ((tl.slew.map (·.remaining)).getD 0) ++ be16 ((tl.slew.map (·.spacing)).getD 0)
      ++ be16 ((tl.slew.map (·.count)).getD 0))
    s

def execReadTime (p : Port) (seq : Byte) (args : List Byte) (s : State) : Result :=
  commandRow .readTime p seq args readTimeCommand s

/-- START (R7): RUNNING, then the reached entries fire, then the START note. -/
def startCommand (s : State) : Verdict :=
  if s.running then .error .wrongState
  else
    done (be48 s.t)
      (sendTimelineNote .start s.t s.t
        (fireReached .start (s.withTimeline { s.timeline with state := .running })))

def execStart (p : Port) (seq : Byte) (args : List Byte) (s : State) : Result :=
  commandRow .start p seq args startCommand s

/-- HALT (R8). -/
def haltCommand (s : State) : Verdict :=
  if s.running then
    done (be48 s.t)
      (sendTimelineNote .halt s.t s.t (s.withTimeline { s.timeline with state := .halted }))
  else .error .wrongState

def execHalt (p : Port) (seq : Byte) (args : List Byte) (s : State) : Result :=
  commandRow .halt p seq args haltCommand s

/-- A slew in progress is cut: the record goes and every attached port is told what was not applied
(R15). -/
def cutSlew (s : State) : State :=
  match s.timeline.slew with
  | none => s
  | some r =>
    sendTimelineNote .slewCut s.t (r.remaining.signExtend 48)
      (s.withTimeline { s.timeline with slew := none })

/-- The late mark of an ARMED ABSOLUTE entry after a step of a timeline that is not RUNNING (R37). -/
def stepMark (t t' amount due : Tick) (late : Option LateMark) : Option LateMark :=
  if !isReached t' due then none
  else
    match late with
    | some m => some m
    | none => if !isPast t due && amount != 0 then some .stepped else none

/-- What a step does to an entry: a RELATIVE due moves with it (R36); an ABSOLUTE due stays, and its
mark changes while the timeline is not RUNNING (R37). Other states hold no due. -/
def Entry.stepped (running : Bool) (t t' amount : Tick) (e : Entry) : Entry :=
  match e.place, e.anchor with
  | .armed due seq late, .relative => { e with place := .armed (due + amount) seq late }
  | .armed due seq late, .absolute =>
    if running then e else { e with place := .armed due seq (stepMark t t' amount due late) }
  | _, _ => e

/-- Whether a slot holds an ABSOLUTE entry. -/
def State.isAbsolute (s : State) (i : SlotId) : Bool :=
  match s.entry i with
  | some e => e.anchor == .absolute
  | none => false

/-- A step of the timeline by an amount, once it has passed its checks (R10, R36 to R38): the slew is
cut, T moves, the entries move or are marked, and while RUNNING the ABSOLUTE entries now reached
fire, in the new order. -/
def stepTimeline (amount : Tick) (s : State) : State :=
  let s1 := cutSlew s
  let t' := s1.t + amount
  let s2 : State :=
    { s1.withTimeline { s1.timeline with t := t' } with
      slots := each
        (fun _ sl => { sl with entry := sl.entry.map (Entry.stepped s1.running s1.t t' amount) })
        s1.slots }
  let s3 := if s2.running then fireAll .step (s2.reachedInOrder.filter s2.isAbsolute) s2 else s2
  sendTimelineNote .step s.t t' s3

/-- The second check of STEP: every ARMED ABSOLUTE entry stays within the horizon (R9). -/
def stepKeepsHorizon (amount : Tick) (s : State) : Bool :=
  allSlots.all (fun i =>
    match s.entry i with
    | some { anchor := .absolute, place := .armed due _ _, .. } =>
      withinHorizon (distance s.t due - amount.toInt)
    | _ => true)

/-- The amount a STEP asks for: the distance of the new T in form ABSOLUTE, the value itself in form
OFFSET, none for another form (R9). -/
def stepAmount (args : List Byte) (t : Tick) : Option Tick :=
  if argByte args 0 = 0 then some (arg48 args 1 - t)
  else if argByte args 0 = 1 then some (arg48 args 1)
  else none

/-- STEP (R9, R10). -/
def stepCommand (args : List Byte) (s : State) : Verdict :=
  match stepAmount args s.t with
  | none => .error .badArgument
  | some amount =>
    if !withinHorizon amount.toInt then .error .range
    else if !stepKeepsHorizon amount s then .error .range
    else done (be48 s.t ++ be48 (s.t + amount)) (stepTimeline amount s)

def execStep (p : Port) (seq : Byte) (args : List Byte) (s : State) : Result :=
  commandRow .step p seq args (stepCommand args) s

/-- A slew record as SLEW installs it (R12). -/
def installSlew (amount : BitVec 32) (spacing : BitVec 16) (s : State) : State :=
  s.withTimeline { s.timeline with slew := some ⟨amount, amount, spacing, 0⟩ }

/-- SLEW (R12). -/
def slewCommand (args : List Byte) (s : State) : Verdict :=
  let amount := arg32 args 0
  let spacing := arg16 args 4
  if amount = BitVec.intMin 32 then .error .badArgument
  else if amount != 0 && spacing.toNat < Config.minSpacing then .error .badArgument
  else
    done (be32 ((s.timeline.slew.map (·.remaining)).getD 0))
      (if amount = 0 then cutSlew s else installSlew amount spacing (cutSlew s))

def execSlew (p : Port) (seq : Byte) (args : List Byte) (s : State) : Result :=
  commandRow .slew p seq args (slewCommand args) s

/-! ## Advance (R3, R4, R13, R14) -/

/-- T advances by `n` ticks, 1 or 2, and the queue fires every reached entry (R3, R4, R24). -/
def advance (n : Tick) (s : State) : State :=
  fireReached .advance (s.withTimeline { s.timeline with t := s.t + n })

/-- Whether the next RUNNING cycle is a slew cycle (R13). -/
def Slew.due (r : Slew) : Bool := r.spacing.toNat ≤ r.count.toNat + 1

/-- The slew record after a slew cycle: one tick less to apply, count 0; none when it is complete
(R13, R14). -/
def Slew.applied (r : Slew) : Option Slew :=
  let left := if r.remaining.toInt < 0 then r.remaining + 1 else r.remaining - 1
  if left = 0 then none else some { r with remaining := left, count := 0 }

/-- A slew cycle: an advance by two or by none, and the completion when no tick is left (R13, R14).
The firings of the final advance come before the SLEW_DONE note. -/
def takeSlewCycle (r : Slew) (s : State) : State :=
  let s1 := s.withTimeline { s.timeline with slew := r.applied }
  let s2 := if r.remaining.toInt < 0 then s1 else advance 2 s1
  match r.applied with
  | some _ => s2
  | none => sendTimelineNote .slewDone s2.t (r.amount.signExtend 48) s2

/-- The timeline unit's part of a REFCLK cycle (R3, R13, R16). -/
def timelineCycle (s : State) : State :=
  if s.running then
    match s.timeline.slew with
    | none => advance 1 s
    | some r =>
      if r.due then takeSlewCycle r s
      else
        advance 1 (s.withTimeline { s.timeline with slew := some { r with count := r.count + 1 } })
  else s

/-- Whether the next REFCLK cycle is a slew cycle. -/
def State.slewDue (s : State) : Bool :=
  s.running && s.timeline.slew.any (fun r => r.due)

/-- Whether the next REFCLK cycle completes a slew. -/
def State.slewCompletes (s : State) : Bool :=
  s.running && s.timeline.slew.any (fun r => r.due && r.applied.isNone)

end Sys2Proof.Machine
end

