-- ==== Sys2Proof/Machine/Clock.lean ====
section
/-! DEFINITION. One REFCLK cycle, as every block takes it (0.7, R3, R88, R89, R98, R99, R132), and
the rows that name what a cycle finds: TIMELINE_ADVANCE, SLEW_CYCLE, SLEW_DONE, PULSE_EXPIRY and
REFCLK_CYCLE. The trigger output unit's counts stand with the timeline's advance and firings, as one
event (R89). The capture unit's event and a port engine's lease count reach other state: either can
be taken as an event of its own before the cycle's row (CAPTURE_EDGE, HOLDOFF_WINDOW_CLOSE,
LEASE_UNIT_BOUNDARY, LEASE_EXPIRY) or, where the cycle holds it back, after it. Each is taken once
per cycle. -/

namespace Sys2Proof.Machine

/-- The trigger output unit counts the cycle for every pulse in flight (R88, R89). -/
def countPulses (s : State) : State :=
  { s with lines := each (fun _ l => l.countCycle) s.lines }

/-- The capture unit's event of a cycle in which no pin changes, unless it has been taken already or
is held back (R98). -/
def cycleCapture (held : Bool) (s : State) : State :=
  if s.captureTurn = .ahead then { s with captureTurn := .inStep }
  else if held then { s with captureTurn := .behind }
  else sampleUnchanged { s with captureTurn := .inStep }

/-- One port engine's part of a cycle, unless it is held back (R132). -/
def cycleLease (held : BitVec 4) (s : State) (p : Port) : State :=
  if (s.port p).turn = .ahead then s.setLeaseTurn p .inStep
  else if held.getLsbD p.val then s.setLeaseTurn p .behind
  else countLease p (s.setLeaseTurn p .inStep)

/-- The capture unit's event that the last cycle held back and that no row has taken since. -/
def settleCapture (s : State) : State :=
  if s.captureTurn = .behind then sampleUnchanged { s with captureTurn := .inStep } else s

/-- The lease count of a port that the last cycle held back and that no row has taken since. -/
def settleLease (s : State) (p : Port) : State :=
  if (s.port p).turn = .behind then countLease p (s.setLeaseTurn p .inStep) else s

/-- Everything the last cycle held back. -/
def settle (s : State) : State := allPorts.foldl settleLease (settleCapture s)

/-- One REFCLK cycle (R3, R89, R98, R132): what the last cycle held back, then the pulses, then the
advance with its firings, then the capture unit and the leases. While RST_N is low no block takes the
cycle (R2, R95, R113, R128). -/
def cycle (held : Held) (s : State) : State :=
  if s.held then s
  else
    allPorts.foldl (cycleLease held.leases)
      (cycleCapture held.capture (timelineCycle (countPulses (settle s))))

/-- TIMELINE_ADVANCE: a REFCLK cycle; T advances if it finds the timeline RUNNING and stays if not
(R3). -/
def execTimelineAdvance (held : Held) (s : State) : Result := .next (cycle held s)

/-- REFCLK_CYCLE: a REFCLK cycle, which counts pulses, windows and leases whatever the timeline's
state (R88, R99, R132). -/
def execRefclkCycle (held : Held) (s : State) : Result := .next (cycle held s)

/-- PULSE_EXPIRY of a line (R88): the REFCLK cycle, taken whole, whose count brings the line's pulse
to zero, the counts of all lines and the firings of the cycle with it (R89; DEDUCED, log entry 7).
Where the next cycle ends no pulse of the line the event cannot occur and nothing changes (DESIGN
CHOICE, log entry 8). -/
def execPulseExpiry (l : LineId) (s : State) : Result :=
  .next (if !s.held && ((settle s).line l).pulse == some 1 then cycle Held.nothing s else s)

/-- SLEW_CYCLE: the REFCLK cycle on which the slew count reaches the spacing (R13). In a state whose
next cycle is no slew cycle the event cannot occur and nothing changes. -/
def execSlewCycle (held : Held) (s : State) : Result :=
  .next (if s.slewDue then cycle held s else s)

/-- SLEW_DONE: the slew cycle that brings slew remaining to zero (R14). In a state whose next cycle
completes no slew the event cannot occur and nothing changes. -/
def execSlewDone (held : Held) (s : State) : Result :=
  .next (if s.slewCompletes then cycle held s else s)

end Sys2Proof.Machine
end

