-- ==== Sys2Proof/Machine/Authority.lean ====
section
/-! DEFINITION. The time authority and the division of the slot pool: CLAIM_AUTHORITY,
RELEASE_AUTHORITY, SET_RESERVES, SET_CEILING (spec/09_time_authority.md,
spec/04_slot_reserves_and_ceilings.md). -/

namespace Sys2Proof.Machine

/-- The data of a CLAIM_AUTHORITY response: holder and position after the take (R143). -/
def claimData (p : Port) (s : State) : List Byte :=
  [portByte s.authority.holder, nat8 (if s.holds p then 0 else s.waitPosition p)]

/-- CLAIM_AUTHORITY (R143). -/
def claimAuthorityCommand (p : Port) (s : State) : Verdict :=
  match s.authority.holder with
  | none =>
    let s' := { s with authority := { s.authority with holder := some p } }
    done (claimData p s') s'
  | some h =>
    if h = p then done (claimData p s) s
    else if s.authority.waitList.contains p then .ok ⟨.pending, claimData p s, s⟩
    else
      let s' := { s with authority := { s.authority with waitList := s.authority.waitList ++ [p] } }
      .ok ⟨.pending, claimData p s', s'⟩

def execClaimAuthority (p : Port) (seq : Byte) (args : List Byte) (s : State) : Result :=
  commandRow .claimAuthority p seq args (claimAuthorityCommand p) s

/-- RELEASE_AUTHORITY (R144): role before (0 HOLDER, 1 WAITER) and holder after the take. -/
def releaseAuthorityCommand (p : Port) (s : State) : Verdict :=
  if s.authority.holder = some p then
    let s' := handOver p .release s
    done [0, portByte s'.authority.holder] s'
  else if s.authority.waitList.contains p then
    let s' := leaveWaitList p s
    done [1, portByte s'.authority.holder] s'
  else .error .wrongState

def execReleaseAuthority (p : Port) (seq : Byte) (args : List Byte) (s : State) : Result :=
  commandRow .releaseAuthority p seq args (releaseAuthorityCommand p) s

/-- The reserve that SET_RESERVES gives a port (R75). -/
def newReserve (args : List Byte) (p : Port) : Nat := argNat args (2 * p.val) 2

/-- The three checks of SET_RESERVES: the sum, the ceilings, and the claims (R75). -/
def reservesFit (args : List Byte) (s : State) : Bool :=
  sumPorts (newReserve args) ≤ Config.storeSize
    && allPorts.all (fun p => newReserve args p ≤ (s.quota p).ceiling)
    && sumPorts (fun p => max (s.quota p).usage (newReserve args p)) ≤ Config.storeSize

/-- SET_RESERVES (R75, R76). -/
def setReservesCommand (args : List Byte) (s : State) : Verdict :=
  if reservesFit args s then
    let s' := { s with quotas := each (fun p q => { q with reserve := newReserve args p }) s.quotas }
    done (allocationSummary s') s'
  else .error .quotaConflict

def execSetReserves (p : Port) (seq : Byte) (args : List Byte) (s : State) : Result :=
  commandRow .setReserves p seq args (setReservesCommand args) s

/-- SET_CEILING (R77). -/
def setCeilingCommand (args : List Byte) (s : State) : Verdict :=
  match finOf 4 (argByte args 0) with
  | none => .error .badArgument
  | some q =>
    let ceiling := argNat args 1 2
    if Config.storeSize < ceiling then .error .badArgument
    else if ceiling < (s.quota q).reserve then .error .quotaConflict
    else
      let s' := s.modQuota q (fun r => { r with ceiling := ceiling })
      done (allocationSummary s') s'

def execSetCeiling (p : Port) (seq : Byte) (args : List Byte) (s : State) : Result :=
  commandRow .setCeiling p seq args (setCeilingCommand args) s

end Sys2Proof.Machine
end

