-- ==== Sys2Proof/Machine/Entries.lean ====
section
/-! DEFINITION. The entry commands: ARM, ARM_ON_CAPTURE, MODIFY, PAUSE, RESUME, CANCEL, QUERY_ENTRY,
LIST_ENTRIES (spec/03_entries_and_handles.md). -/

namespace Sys2Proof.Machine

/-- The slot a handle names (R49). -/
def handleSlot (h : BitVec 16) : SlotId := (h.extractLsb' 8 8).toFin

/-- The generation a handle carries (R49). -/
def handleGen (h : BitVec 16) : BitVec 8 := h.extractLsb' 0 8

/-- The first two handle checks: the entry a handle names, if it is not stale and the port owns it
(R50). -/
def handleChecks (p : Port) (h : BitVec 16) (s : State) : Except Status Entry :=
  match s.entry (handleSlot h) with
  | none => .error .stale
  | some e =>
    if (s.slot (handleSlot h)).gen != handleGen h then .error .stale
    else if e.owner != p then .error .notOwner
    else .ok e

/-- The options of an ARM (R51). -/
def armOptions (args : List Byte) : EntryOptions := entryOptions (argByte args 2) args 9

/-- The due of an ARM, none outside the horizon (R53). -/
def armDue (args : List Byte) (t : Tick) : Option Tick :=
  placeDue t ((argByte args 2).getLsbD 3) (arg48 args 3)

/-- ARM (R52, R54). -/
def armCommand (p : Port) (args : List Byte) (s : State) : Verdict :=
  let o := armOptions args
  if o.bad then .error .badArgument
  else if o.notOwned p s then .error .notOwner
  else
    match armDue args s.t with
    | none => .error .range
    | some due =>
      if (argByte args 2).getLsbD 2 && isPast s.t due then .error .past
      else
        match allocate p s with
        | .error st => .error st
        | .ok i =>
          let e := o.entry p (arg16 args 0) (.armed due s.armSeq none)
          done (be16 (s.handle i) ++ be48 due) (arrive i e due none (raiseUsage p s))

def execArm (p : Port) (seq : Byte) (args : List Byte) (s : State) : Result :=
  commandRow .arm p seq args (armCommand p args) s

/-- The options of an ARM_ON_CAPTURE (R55). -/
def armOnCaptureOptions (args : List Byte) : EntryOptions := entryOptions (argByte args 2) args 8

/-- A new WAITING entry: it takes its slot and joins the tail of the line's waiting list (R56). -/
def startWaiting (i : SlotId) (e : Entry) (c : CaptureId) (s : State) : State :=
  (s.modSlot i (fun sl => { sl with entry := some e })).modCap c
    (fun r => { r with waiting := r.waiting ++ [i] })

/-- ARM_ON_CAPTURE (R55, R56). -/
def armOnCaptureCommand (p : Port) (args : List Byte) (s : State) : Verdict :=
  let o := armOnCaptureOptions args
  match finOf 8 (argByte args 3) with
  | none => .error .badArgument
  | some c =>
    if o.bad then .error .badArgument
    else if o.notOwned p s then .error .notOwner
    else
      match allocate p s with
      | .error st => .error st
      | .ok i =>
        let e := o.entry p (arg16 args 0) (.waiting c (arg32 args 4))
        done (be16 (s.handle i)) (startWaiting i e c (raiseUsage p s))

def execArmOnCapture (p : Port) (seq : Byte) (args : List Byte) (s : State) : Result :=
  commandRow .armOnCapture p seq args (armOnCaptureCommand p args) s

/-- The period a MODIFY gives, if any (R58). -/
def modifyPeriod (args : List Byte) : Option (BitVec 32) :=
  if (argByte args 2).getLsbD 4 then some (arg32 args 9) else none

/-- The count a MODIFY gives, if any (R58). -/
def modifyCount (args : List Byte) : Option (BitVec 16) :=
  if (argByte args 2).getLsbD 5 then
    some (arg16 args (if (argByte args 2).getLsbD 4 then 13 else 9))
  else none

/-- An entry with the new period and count of a MODIFY; those not given are kept (R59, step 4). -/
def Entry.modified (e : Entry) (period : Option (BitVec 32)) (count : Option (BitVec 16)) : Entry :=
  { e with period := period.orElse (fun _ => e.period), count := count.orElse (fun _ => e.count) }

/-- The first check of MODIFY's own (R58). -/
def modifyBad (e : Entry) (period : Option (BitVec 32)) (count : Option (BitVec 16)) : Bool :=
  period == some 0 || count == some 0 || (count.isSome && e.period.isNone && period.isNone)

/-- MODIFY (R58, R59). -/
def modifyCommand (p : Port) (args : List Byte) (s : State) : Verdict :=
  let h := arg16 args 0
  match handleChecks p h s with
  | .error st => .error st
  | .ok e =>
    match e.place with
    | .armed _ _ _ =>
      if modifyBad e (modifyPeriod args) (modifyCount args) then .error .badArgument
      else
        match armDue args s.t with
        | none => .error .range
        | some due =>
          if (argByte args 2).getLsbD 2 && isPast s.t due then .error .past
          else
            done (be48 due)
              (arrive (handleSlot h) (e.modified (modifyPeriod args) (modifyCount args)) due none s)
    | _ => .error .wrongState

def execModify (p : Port) (seq : Byte) (args : List Byte) (s : State) : Result :=
  commandRow .modify p seq args (modifyCommand p args) s

/-- The remaining distance a PAUSE records: 0 when the due is past (R60). -/
def remainingOf (t due : Tick) : Tick := if isPast t due then 0 else due - t

/-- PAUSE (R60). -/
def pauseCommand (p : Port) (args : List Byte) (s : State) : Verdict :=
  let h := arg16 args 0
  match handleChecks p h s with
  | .error st => .error st
  | .ok e =>
    match e.place with
    | .armed due _ late =>
      let r := remainingOf s.t due
      done (be48 r)
        ((leaveQueue (handleSlot h) s).modSlot (handleSlot h)
          (fun sl => { sl with entry := some { e with place := .paused r late } }))
    | _ => .error .wrongState

def execPause (p : Port) (seq : Byte) (args : List Byte) (s : State) : Result :=
  commandRow .pause p seq args (pauseCommand p args) s

/-- RESUME (R61). -/
def resumeCommand (p : Port) (args : List Byte) (s : State) : Verdict :=
  let h := arg16 args 0
  match handleChecks p h s with
  | .error st => .error st
  | .ok e =>
    match e.place with
    | .paused r late => done (be48 (s.t + r)) (arrive (handleSlot h) e (s.t + r) late s)
    | _ => .error .wrongState

def execResume (p : Port) (seq : Byte) (args : List Byte) (s : State) : Result :=
  commandRow .resume p seq args (resumeCommand p args) s

/-- CANCEL (R63). -/
def cancelCommand (p : Port) (args : List Byte) (s : State) : Verdict :=
  let h := arg16 args 0
  match handleChecks p h s with
  | .error st => .error st
  | .ok e => done [e.place.code] (freeSlot (handleSlot h) s)

def execCancel (p : Port) (seq : Byte) (args : List Byte) (s : State) : Result :=
  commandRow .cancel p seq args (cancelCommand p args) s

/-- QUERY_ENTRY (R64). -/
def queryEntryCommand (p : Port) (args : List Byte) (s : State) : Verdict :=
  let h := arg16 args 0
  match handleChecks p h s with
  | .error st => .error st
  | .ok e => done (e.descriptor h) s

def execQueryEntry (p : Port) (seq : Byte) (args : List Byte) (s : State) : Result :=
  commandRow .queryEntry p seq args (queryEntryCommand p args) s

/-- The slots of a port's entries from a start index upward (R65). -/
def ownedFrom (p : Port) (start : Nat) (s : State) : List SlotId :=
  allSlots.filter (fun i => start ≤ i.val && s.ownsSlot p i)

/-- The handle and state bytes of one listed slot (R65, R170). -/
def listedBytes (s : State) (i : SlotId) : List Byte :=
  be16 (s.handle i) ++ [(s.entry i).elim 0 (fun e => e.place.code)]

/-- LIST_ENTRIES (R65). -/
def listEntriesCommand (p : Port) (args : List Byte) (s : State) : Verdict :=
  let found := ownedFrom p (argByte args 0).toNat s
  let shown := found.take Config.maxListed
  done ([nat8 shown.length, flagByte (Config.maxListed < found.length)]
      ++ shown.flatMap (listedBytes s)) s

def execListEntries (p : Port) (seq : Byte) (args : List Byte) (s : State) : Result :=
  commandRow .listEntries p seq args (listEntriesCommand p args) s

end Sys2Proof.Machine
end

