-- ==== Sys2Proof/Machine/Lines.lean ====
section
/-! DEFINITION. The trigger line commands: CLAIM_LINE, RELEASE_LINE, DRIVE_LINE, READ_LINES
(spec/05_trigger_outputs.md). -/

namespace Sys2Proof.Machine

/-- An idle level from its code (R83). -/
def decodeLevel (b : Byte) : Option Level :=
  if b = 0 then some .low else if b = 1 then some .high else none

/-- Whether a line is owned by a port other than `p`. -/
def ownedByOther (owner : Option Port) (p : Port) : Bool :=
  match owner with
  | none => false
  | some q => q != p

/-- CLAIM_LINE (R83). -/
def claimLineCommand (p : Port) (args : List Byte) (s : State) : Verdict :=
  match finOf 16 (argByte args 0), decodeLevel (argByte args 1) with
  | some l, some v =>
    if ownedByOther (s.line l).owner p then .error .owned
    else
      let s' := s.modLine l (fun r => { r.rest with owner := some p, idleLevel := v })
      done [portByte (s'.line l).owner, (s'.line l).lineByte] s'
  | _, _ => .error .badArgument

def execClaimLine (p : Port) (seq : Byte) (args : List Byte) (s : State) : Result :=
  commandRow .claimLine p seq args (claimLineCommand p args) s

/-- Whether the line action of any entry of a port names a line (R84, step 3). -/
def lineInUse (p : Port) (l : LineId) (s : State) : Bool :=
  allSlots.any (fun i =>
    match s.entry i with
    | some e => e.owner == p && e.action.any (fun a => a.line == l)
    | none => false)

/-- RELEASE_LINE (R84). -/
def releaseLineCommand (p : Port) (args : List Byte) (s : State) : Verdict :=
  match finOf 16 (argByte args 0) with
  | none => .error .badArgument
  | some l =>
    if (s.line l).owner != some p then .error .notOwner
    else if lineInUse p l s then .error .inUse
    else done [] (s.modLine l (fun r => { r.rest with owner := none }))

def execReleaseLine (p : Port) (seq : Byte) (args : List Byte) (s : State) : Result :=
  commandRow .releaseLine p seq args (releaseLineCommand p args) s

/-- DRIVE_LINE (R92). -/
def driveLineCommand (p : Port) (args : List Byte) (s : State) : Verdict :=
  match decodeAction (argByte args 0) (argByte args 1) (arg16 args 2) with
  | none => .error .badArgument
  | some a =>
    if (s.line a.line).owner != some p then .error .notOwner
    else
      let s' := s.modLine a.line a.op.apply
      done ([(s'.line a.line).lineByte] ++ be16 (s'.line a.line).pulseLeft) s'

def execDriveLine (p : Port) (seq : Byte) (args : List Byte) (s : State) : Result :=
  commandRow .driveLine p seq args (driveLineCommand p args) s

/-- The four bytes of one line in a READ_LINES response (R93, R170). -/
def TriggerLine.bytes (l : TriggerLine) : List Byte :=
  [portByte l.owner, l.lineByte] ++ be16 l.pulseLeft

/-- READ_LINES (R93). -/
def readLinesCommand (s : State) : Verdict :=
  done ((List.finRange 16).flatMap (fun l => (s.line l).bytes)) s

def execReadLines (p : Port) (seq : Byte) (args : List Byte) (s : State) : Result :=
  commandRow .readLines p seq args readLinesCommand s

end Sys2Proof.Machine
end

