-- ==== Sys2Proof/Machine/Notes.lean ====
section
/-! DEFINITION. The note commands: FETCH_NOTES and SET_ATTENTION (spec/07_notification_queues.md). -/

namespace Sys2Proof.Machine

/-- FETCH_NOTES (R120): the smaller of n and the number of records leaves the head of the queue. -/
def fetchNotesCommand (p : Port) (args : List Byte) (s : State) : Verdict :=
  let n := (argByte args 0).toNat
  if n = 0 || Config.maxFetch < n then .error .badArgument
  else
    let records := (s.noteQueue p).records
    let taken := records.take n
    done ([nat8 taken.length] ++ taken.flatMap Note.bytes ++ [nat8 (records.drop n).length])
      (s.modNotes p (fun q => { q with records := q.records.drop n }))

def execFetchNotes (p : Port) (seq : Byte) (args : List Byte) (s : State) : Result :=
  commandRow .fetchNotes p seq args (fetchNotesCommand p args) s

/-- An attention enable from its code (R122). -/
def decodeAttention (b : Byte) : Option Bool :=
  if b = 0 then some false else if b = 1 then some true else none

/-- SET_ATTENTION (R122). -/
def setAttentionCommand (p : Port) (args : List Byte) (s : State) : Verdict :=
  match decodeAttention (argByte args 0) with
  | none => .error .badArgument
  | some b =>
    done [flagByte (s.noteQueue p).attention, nat8 (s.noteQueue p).records.length]
      (s.modNotes p (fun q => { q with attention := b }))

def execSetAttention (p : Port) (seq : Byte) (args : List Byte) (s : State) : Result :=
  commandRow .setAttention p seq args (setAttentionCommand p args) s

end Sys2Proof.Machine
end

