-- ==== Sys2Proof/Machine/Frames.lean ====
section
/-! DEFINITION. Frames on a host port, byte by byte: select, bytes, framing errors, replays and
frames of any code (spec/10_host_port_frames.md). -/

namespace Sys2Proof.Machine

/-- A command's own checks and effects, by its name. `remaining` is the lease remaining that STATUS
reports. -/
def carryOut (c : Command) (p : Port) (args : List Byte) (remaining : BitVec 16) : State → Verdict :=
  match c with
  | .status => statusCommand p remaining
  | .attach => attachCommand p args
  | .detach => detachCommand p
  | .readTime => readTimeCommand
  | .start => startCommand
  | .halt => haltCommand
  | .step => stepCommand args
  | .slew => slewCommand args
  | .claimAuthority => claimAuthorityCommand p
  | .releaseAuthority => releaseAuthorityCommand p
  | .setReserves => setReservesCommand args
  | .setCeiling => setCeilingCommand args
  | .arm => armCommand p args
  | .armOnCapture => armOnCaptureCommand p args
  | .modify => modifyCommand p args
  | .pause => pauseCommand p args
  | .resume => resumeCommand p args
  | .cancel => cancelCommand p args
  | .queryEntry => queryEntryCommand p args
  | .listEntries => listEntriesCommand p args
  | .claimLine => claimLineCommand p args
  | .releaseLine => releaseLineCommand p args
  | .driveLine => driveLineCommand p args
  | .readLines => readLinesCommand
  | .claimCapture => claimCaptureCommand p args
  | .releaseCapture => releaseCaptureCommand p args
  | .configureCapture => configureCaptureCommand p args
  | .subscribe => subscribeCommand p args
  | .unsubscribe => unsubscribeCommand p args
  | .readCapture => readCaptureCommand args
  | .fetchNotes => fetchNotesCommand p args
  | .setAttention => setAttentionCommand p args

/-- Steps 2 to 5 of the general order for a frame of any code: an unknown one is refused BAD_COMMAND
(R162, R163). -/
def judgeCode (code : Byte) (p : Port) (args : List Byte) (remaining : BitVec 16) (s : State) :
    Verdict :=
  match Command.ofCode code with
  | none => .error .badCommand
  | some c => judge c p args (carryOut c p args remaining) s

/-- The frame verdict in a state: STATUS reports that state's lease remaining. -/
def State.verdict (s : State) (code : Byte) (p : Port) (args : List Byte) : State → Verdict :=
  judgeCode code p args (s.session p).leaseRemaining

/-- FRAME_BEGIN: HCSn_N falls (R151). In IDLE a frame begins. A select that is low already cannot
fall, and one that falls while RST_N is low begins no frame (R158). -/
def execFrameBegin (p : Port) (s : State) : Result :=
  if (s.port p).select = .low then .next s
  else
    .next (s.modPort p (fun e =>
      { e with
        select := .low
        receiver :=
          if !s.held && e.receiver = .idle then .receiving [] (statusByte s p) else e.receiver }))

/-- FRAME_END: HCSn_N rises, which ends the frame in any state of the receiver (R157). -/
def execFrameEnd (p : Port) (s : State) : Result :=
  .next (s.modPort p (fun e => { e with select := .high, receiver := .idle }))

/-- The bytes of a frame in RECEIVING, with one more. -/
def State.receive (s : State) (p : Port) (bytes : List Byte) : State :=
  s.modPort p (fun e => { e with receiver := .receiving bytes (statusByte s p) })

/-- A byte arrives in RECEIVING (R151): the length byte may be a framing error (R153), the byte at
position L + 4 is the check byte and decides the frame (R154, R155), any other is kept and the next
copy of the status byte begins (R152). -/
def receiveByte (p : Port) (bytes : List Byte) (b : Byte) (s : State) : State :=
  match bytes with
  | [code, seq] =>
    if Config.maxArgs < b.toNat then badFrameAnswer p s else s.receive p [code, seq, b]
  | code :: seq :: len :: args =>
    if args.length = len.toNat then decideFrame p code seq args b (s.verdict code p args) s
    else s.receive p (bytes ++ [b])
  | _ => s.receive p (bytes ++ [b])

/-- BYTE_RECEIVED: eight bits are clocked on a port (R151). In ANSWERING HSDI is not read and one
response byte is shifted out (R156); in DRAINING and IDLE nothing changes. -/
def execByteReceived (p : Port) (b : Byte) (s : State) : Result :=
  if s.held then .next s
  else
    match (s.port p).receiver with
    | .receiving bytes _ => .next (receiveByte p bytes b s)
    | .answering r sent =>
      .next (s.modPort p (fun e =>
        { e with
          receiver := if r.bytes.length ≤ sent + 1 then .draining else .answering r (sent + 1) }))
    | .idle => .next s
    | .draining => .next s

/-- RESPONSE_SHIFTED_OUT: the rest of the response is clocked out (R156). With no response being
shifted out the event cannot occur. -/
def execResponseShiftedOut (p : Port) (s : State) : Result :=
  match (s.port p).receiver with
  | .answering _ _ => .next (s.modPort p (fun e => { e with receiver := .draining }))
  | _ => .next s

/-- BAD_FRAME_LENGTH: a frame arrives up to its length byte (R153). A length of 24 or less is kept
like any byte. -/
def execBadFrameLength (p : Port) (code seq len : Byte) (s : State) : Result :=
  if s.held then .next s
  else
    match (s.port p).receiver with
    | .receiving bytes _ =>
      if bytes.isPrefixOf [code, seq] then .next (receiveByte p [code, seq] len s) else .next s
    | _ => .next s

/-- BAD_FRAME: a frame arrives with a check byte of the host's (R154). -/
def execBadFrame (p : Port) (code seq : Byte) (args : List Byte) (check : Byte) (s : State) :
    Result :=
  frameArrives p code seq args check (s.verdict code p args) s

/-- REPLAY: a good frame arrives; R155 decides whether it is a replay or a take. -/
def execReplay (p : Port) (code seq : Byte) (args : List Byte) (s : State) : Result :=
  frameArrives p code seq args (frameCheck code seq args) (s.verdict code p args) s

/-- UNKNOWN_COMMAND: a good frame arrives with a code of the host's choice (R163). -/
def execUnknownCommand (p : Port) (code seq : Byte) (args : List Byte) (s : State) : Result :=
  frameArrives p code seq args (frameCheck code seq args) (s.verdict code p args) s

end Sys2Proof.Machine
end

