-- ==== Sys2Proof/Machine/Reset.lean ====
section
/-! DEFINITION. Power-on and the two edges of RST_N. The levels of the input pins are the outside's
and no reset changes them. -/

namespace Sys2Proof.Machine

/-- POWER_ON: every block takes its power-on values (R1, R43, R48, R69, R81, R97, R114, R128, R142,
R151, R159). -/
def execPowerOn (s : State) : Result :=
  .next
    { State.reset with
      rstN := s.rstN
      captures := each (fun _ r => CaptureLine.reset r.pin) s.captures
      ports := each (fun _ e => PortEngine.reset e.select) s.ports
      pending := s.pending }

/-- A session record at the fall of RST_N (R128). -/
def Session.atReset (ss : Session) : Session :=
  { Session.reset with
    epoch := ss.epoch
    lastEnd := if ss.state = .detached then .none else .deviceReset }

/-- A port engine at the fall of RST_N (R128, R158). -/
def PortEngine.atReset (e : PortEngine) : PortEngine :=
  { PortEngine.reset e.select with session := e.session.atReset }

/-- A slot at the fall of RST_N: an entry is freed, a FREE slot keeps its generation (R48). -/
def Slot.atReset (sl : Slot) : Slot := if sl.entry.isSome then sl.freed else sl

/-- DEVICE_RESET: RST_N falls (R48, R69, R95, R113, R126, R128, R150, R158). A pin that is low
already cannot fall. -/
def execDeviceReset (s : State) : Result :=
  if s.held then .next s
  else
    .next
      { State.reset with
        rstN := .low
        resetCause := .resetPin
        slots := each (fun _ sl => sl.atReset) s.slots
        captures := each (fun _ r => CaptureLine.reset r.pin) s.captures
        ports := each (fun _ e => e.atReset) s.ports
        pending := s.pending }

/-- RESET_RELEASE: RST_N rises; the timeline, the arm sequence counter and the receivers stand as
after a reset (R1, R2, R21, R43, R98, R158). A pin that is high already cannot rise. -/
def execResetRelease (s : State) : Result :=
  if s.held then
    .next
      { s with
        rstN := .high
        timeline := .reset
        armSeq := 0
        captures := each (fun _ r => { r with sample := none }) s.captures
        ports := each (fun _ e => { e with receiver := .idle }) s.ports }
  else .next s

end Sys2Proof.Machine
end

