-- ==== Sys2Proof/Machine/Dispatch.lean ====
section
/-! DEFINITION. The meaning of every command, one arm per row of spec/opcode_table.json. -/

namespace Sys2Proof.Machine

def exec (i : Instr) (s : State) : Host.Outcome State Fault Refusal :=
  match i with
  | .powerOn => Sys2Proof.Machine.execPowerOn s
  | .deviceReset => Sys2Proof.Machine.execDeviceReset s
  | .resetRelease => Sys2Proof.Machine.execResetRelease s
  | .timelineAdvance held => Sys2Proof.Machine.execTimelineAdvance held s
  | .slewCycle held => Sys2Proof.Machine.execSlewCycle held s
  | .slewDone held => Sys2Proof.Machine.execSlewDone held s
  | .pulseExpiry line => Sys2Proof.Machine.execPulseExpiry line s
  | .holdoffWindowClose line => Sys2Proof.Machine.execHoldoffWindowClose line s
  | .leaseUnitBoundary port => Sys2Proof.Machine.execLeaseUnitBoundary port s
  | .leaseExpiry port => Sys2Proof.Machine.execLeaseExpiry port s
  | .captureEdge levels order early => Sys2Proof.Machine.execCaptureEdge levels order early s
  | .frameBegin port => Sys2Proof.Machine.execFrameBegin port s
  | .frameEnd port => Sys2Proof.Machine.execFrameEnd port s
  | .badFrameLength port code seq len => Sys2Proof.Machine.execBadFrameLength port code seq len s
  | .badFrame port code seq args check => Sys2Proof.Machine.execBadFrame port code seq args check s
  | .replay port code seq args => Sys2Proof.Machine.execReplay port code seq args s
  | .responseShiftedOut port => Sys2Proof.Machine.execResponseShiftedOut port s
  | .unknownCommand port code seq args => Sys2Proof.Machine.execUnknownCommand port code seq args s
  | .status port seq args => Sys2Proof.Machine.execStatus port seq args s
  | .attach port seq args => Sys2Proof.Machine.execAttach port seq args s
  | .detach port seq args => Sys2Proof.Machine.execDetach port seq args s
  | .readTime port seq args => Sys2Proof.Machine.execReadTime port seq args s
  | .start port seq args => Sys2Proof.Machine.execStart port seq args s
  | .halt port seq args => Sys2Proof.Machine.execHalt port seq args s
  | .step port seq args => Sys2Proof.Machine.execStep port seq args s
  | .slew port seq args => Sys2Proof.Machine.execSlew port seq args s
  | .claimAuthority port seq args => Sys2Proof.Machine.execClaimAuthority port seq args s
  | .releaseAuthority port seq args => Sys2Proof.Machine.execReleaseAuthority port seq args s
  | .setReserves port seq args => Sys2Proof.Machine.execSetReserves port seq args s
  | .setCeiling port seq args => Sys2Proof.Machine.execSetCeiling port seq args s
  | .arm port seq args => Sys2Proof.Machine.execArm port seq args s
  | .armOnCapture port seq args => Sys2Proof.Machine.execArmOnCapture port seq args s
  | .modify port seq args => Sys2Proof.Machine.execModify port seq args s
  | .pause port seq args => Sys2Proof.Machine.execPause port seq args s
  | .resume port seq args => Sys2Proof.Machine.execResume port seq args s
  | .cancel port seq args => Sys2Proof.Machine.execCancel port seq args s
  | .queryEntry port seq args => Sys2Proof.Machine.execQueryEntry port seq args s
  | .listEntries port seq args => Sys2Proof.Machine.execListEntries port seq args s
  | .claimLine port seq args => Sys2Proof.Machine.execClaimLine port seq args s
  | .releaseLine port seq args => Sys2Proof.Machine.execReleaseLine port seq args s
  | .driveLine port seq args => Sys2Proof.Machine.execDriveLine port seq args s
  | .readLines port seq args => Sys2Proof.Machine.execReadLines port seq args s
  | .claimCapture port seq args => Sys2Proof.Machine.execClaimCapture port seq args s
  | .releaseCapture port seq args => Sys2Proof.Machine.execReleaseCapture port seq args s
  | .configureCapture port seq args => Sys2Proof.Machine.execConfigureCapture port seq args s
  | .subscribe port seq args => Sys2Proof.Machine.execSubscribe port seq args s
  | .unsubscribe port seq args => Sys2Proof.Machine.execUnsubscribe port seq args s
  | .readCapture port seq args => Sys2Proof.Machine.execReadCapture port seq args s
  | .fetchNotes port seq args => Sys2Proof.Machine.execFetchNotes port seq args s
  | .setAttention port seq args => Sys2Proof.Machine.execSetAttention port seq args s
  | .byteReceived port byte => Sys2Proof.Machine.execByteReceived port byte s
  | .refclkCycle held => Sys2Proof.Machine.execRefclkCycle held s

end Sys2Proof.Machine
end

