-- ==== Sys2Proof/Safety.lean ====
section
/-! DEFINITION. The terms in which statements about the 416 are made: what an event leaves alone,
what a taken frame answers, and the laws that every event keeps. -/

namespace Sys2Proof

/-- The row of a known command. -/
def Command.row : Command → Port → Byte → List Byte → Instr
  | .status => .status | .attach => .attach | .detach => .detach
  | .readTime => .readTime | .start => .start | .halt => .halt | .step => .step | .slew => .slew
  | .claimAuthority => .claimAuthority | .releaseAuthority => .releaseAuthority
  | .setReserves => .setReserves | .setCeiling => .setCeiling
  | .arm => .arm | .armOnCapture => .armOnCapture | .modify => .modify | .pause => .pause
  | .resume => .resume | .cancel => .cancel | .queryEntry => .queryEntry
  | .listEntries => .listEntries
  | .claimLine => .claimLine | .releaseLine => .releaseLine | .driveLine => .driveLine
  | .readLines => .readLines
  | .claimCapture => .claimCapture | .releaseCapture => .releaseCapture
  | .configureCapture => .configureCapture | .subscribe => .subscribe
  | .unsubscribe => .unsubscribe | .readCapture => .readCapture
  | .fetchNotes => .fetchNotes | .setAttention => .setAttention

/-- The length that each command's rule calls for, from the argument bytes; none where it cannot be
told, because the flags byte of a variable-length command is missing (R163). -/
def Command.lengthCalledFor (c : Command) (args : List Byte) : Option Nat :=
  let optional : Nat → Byte → Nat := fun line flags =>
    4 * (flags.toNat / 16 % 2) + 2 * (flags.toNat / 32 % 2) + line * (flags.toNat / 64 % 2)
  match c with
  | .status | .detach => some 0                                        -- R139, R131
  | .attach => some 2                                                  -- R129
  | .readTime | .start | .halt => some 0                               -- R17, R7, R8
  | .step => some 7                                                    -- R9
  | .slew => some 6                                                    -- R12
  | .claimAuthority | .releaseAuthority => some 0                      -- R143, R144
  | .setReserves => some 8                                             -- R75
  | .setCeiling => some 3                                              -- R77
  | .arm => args[2]?.map (fun flags => 9 + optional 4 flags)           -- R51
  | .armOnCapture => args[2]?.map (fun flags => 8 + optional 4 flags)  -- R55
  | .modify => args[2]?.map (fun flags => 9 + optional 0 flags)        -- R58
  | .pause | .resume | .cancel | .queryEntry => some 2                 -- R60, R61, R63, R64
  | .listEntries => some 1                                             -- R65
  | .claimLine => some 2                                               -- R83
  | .releaseLine => some 1                                             -- R84
  | .driveLine => some 4                                               -- R92
  | .readLines => some 0                                               -- R93
  | .claimCapture | .releaseCapture => some 1                          -- R106, R107
  | .configureCapture => some 5                                        -- R108
  | .subscribe | .unsubscribe | .readCapture => some 1                 -- R109, R110
  | .fetchNotes | .setAttention => some 1                              -- R120, R122

/-- The argument bytes of a command have the length its rule calls for (R163). -/
abbrev Command.LengthRight (c : Command) (args : List Byte) : Prop :=
  c.lengthCalledFor args = some args.length

/-! ## Bytes on the wire, written out from chapter 11 -/

/-- A number in `n` bytes, most significant byte first (R166). -/
def bigEndian (n v : Nat) : List Byte :=
  (List.range n).map (fun k => BitVec.ofNat 8 (v / 256 ^ (n - 1 - k)))

/-- The check byte over these bytes: the CRC-8 with generator 07h and a register that starts at FFh
(R168). -/
def checkByte (bytes : List Byte) : Byte :=
  bytes.foldl
    (fun register byte =>
      (List.range 8).foldl
        (fun r _ => if r.getLsbD 7 = true then r <<< 1 ^^^ 0x07#8 else r <<< 1)
        (register ^^^ byte))
    0xFF#8

/-- The envelope of a command up to its check byte: code, sequence, length, arguments (R167). -/
def envelope (code seq : Byte) (args : List Byte) : List Byte :=
  [code, seq, BitVec.ofNat 8 args.length] ++ args

end Sys2Proof

namespace Sys2Proof.Machine

/-! ## What an event leaves alone -/

/-- The parts of the state. -/
inductive Part where
  | rstN | resetCause | timeline | slots | queue | armSeq | quotas | lines | captures
  | captureTurn | notes | ports | authority | pending
deriving DecidableEq, Repr

/-- A part reads the same in two states. -/
def Part.Same (a : Part) (s t : State) : Prop :=
  match a with
  | .rstN => t.rstN = s.rstN
  | .resetCause => t.resetCause = s.resetCause
  | .timeline => t.timeline = s.timeline
  | .slots => t.slots = s.slots
  | .queue => t.queue = s.queue
  | .armSeq => t.armSeq = s.armSeq
  | .quotas => t.quotas = s.quotas
  | .lines => t.lines = s.lines
  | .captures => t.captures = s.captures
  | .captureTurn => t.captureTurn = s.captureTurn
  | .notes => t.notes = s.notes
  | .ports => t.ports = s.ports
  | .authority => t.authority = s.authority
  | .pending => t.pending = s.pending

/-- Every part is as before, except perhaps those named. -/
def KeepsAllBut (touched : List Part) (s t : State) : Prop := ∀ a, a ∉ touched → a.Same s t

/-! ## Layouts of chapter 11, written out -/

/-- The code of a status (R167). -/
def Status.onWire : Status → Byte
  | .ok => 0x00 | .pending => 0x01 | .badFrame => 0x10 | .badCommand => 0x11
  | .notAttached => 0x20 | .expired => 0x21 | .notAuthority => 0x22
  | .badArgument => 0x30 | .range => 0x31 | .past => 0x32
  | .overCeiling => 0x40 | .noSlot => 0x41 | .quotaConflict => 0x42
  | .stale => 0x50 | .notOwner => 0x51 | .wrongState => 0x52 | .owned => 0x53 | .inUse => 0x54

/-- The bytes of a response: status, flags (replay in bit 7, notes pending in bit 6, holder in bit
5), length, data and the check byte over all of them (R156, R167, R168). -/
def Response.onWire (r : Response) : List Byte :=
  let body : List Byte :=
    [r.status.onWire,
      BitVec.ofNat 8
        (128 * r.replay.toNat + 64 * r.notesPending.toNat + 32 * r.holder.toNat),
      BitVec.ofNat 8 r.data.length] ++ r.data
  body ++ [checkByte body]

/-- The 20 bytes of a note record, kind by kind (R171). -/
def Note.onWire : Note → List Byte
  | .fired handle tag due firedAt cause missed final =>
    [0x01,
      BitVec.ofNat 8
        ((match cause with | .onTime => 0 | .past => 1 | .stepped => 2) + 128 * final.toNat)] ++
    bigEndian 2 handle.toNat ++ bigEndian 2 tag.toNat ++ bigEndian 6 due.toNat ++
    bigEndian 6 firedAt.toNat ++ bigEndian 2 missed.toNat
  | .capture line edge timestamp notRunning suppressed =>
    [0x02, BitVec.ofNat 8 line.val,
      BitVec.ofNat 8 ((match edge with | .rise => 0 | .fall => 1) + 128 * notRunning.toNat),
      suppressed] ++
    bigEndian 6 timestamp.toNat ++ List.replicate 10 0
  | .timeline op before second =>
    [0x03,
      match op with
      | .start => 0x01 | .halt => 0x02 | .step => 0x03 | .slewDone => 0x04 | .slewCut => 0x05] ++
    bigEndian 6 before.toNat ++ bigEndian 6 second.toNat ++ List.replicate 6 0
  | .authority previous cause =>
    [0x04, 0x01, BitVec.ofNat 8 previous.val,
      match cause with | .release => 0x00 | .sessionEnd => 0x01] ++ List.replicate 16 0
  | .loss count => [0x05, 0x00] ++ bigEndian 2 count.toNat ++ List.replicate 16 0

/-! ## Frames -/

/-- A receiver is RECEIVING, and the bytes it holds are the first of these. -/
def Receiver.holdsStartOf (bytes : List Byte) : Receiver → Bool
  | .receiving held _ => held.isPrefixOf bytes
  | _ => false

/-- The rest of a frame of 24 argument bytes or fewer finds a receiver that reads it (R151). -/
abbrev Reads (p : Port) (code seq : Byte) (args : List Byte) (s : State) : Prop :=
  s.rstN = .high ∧ args.length ≤ 24 ∧
    (s.port p).receiver.holdsStartOf (envelope code seq args) = true

/-- A good frame is a replay of the last command taken on the port (R155). -/
abbrev IsReplay (p : Port) (seq check : Byte) (s : State) : Prop :=
  seq ≠ 0 ∧ (s.port p).replay.lastSeq = some seq ∧ (s.port p).replay.lastCheck = some check

/-- A good frame is read to its check byte and is no replay, so it is taken (R155). -/
abbrev IsTake (p : Port) (c : Command) (seq : Byte) (args : List Byte) (s : State) : Prop :=
  Reads p c.code seq args s ∧ ¬ IsReplay p seq (checkByte (envelope c.code seq args)) s

/-- A frame is taken from a port whose session is ATTACHED. -/
abbrev IsAttachedTake (p : Port) (c : Command) (seq : Byte) (args : List Byte) (s : State) : Prop :=
  IsTake p c seq args s ∧ (s.session p).state = .attached

/-- A guarded command is taken from the ATTACHED port that holds the authority. -/
abbrev IsHolderTake (p : Port) (c : Command) (seq : Byte) (args : List Byte) (s : State) : Prop :=
  IsAttachedTake p c seq args s ∧ s.authority.holder = some p

/-- A session record after a frame that renews its lease (R132, R133). -/
def renewed (ss : Session) : Session :=
  if ss.state = .attached ∧ ss.leasePeriod ≠ 0 then
    { ss with leaseRemaining := ss.leasePeriod, unitPhase := 0 }
  else ss

/-- A response with its replay flag clear that reports notes pending and holder as a state has them
(R156). -/
def answer (p : Port) (status : Status) (data : List Byte) (t : State) : Response :=
  { status := status, replay := false, notesPending := !(t.noteQueue p).records.isEmpty,
    holder := t.authority.holder == some p, data := data }

/-- What a take leaves in the port engines: the response is being shifted out and is stored for
replay with the frame's sequence and check byte, the session record is `ss`, and no other port's
engine is touched (R155, R156, R159). -/
def Answered (p : Port) (code seq : Byte) (args : List Byte) (status : Status) (data : List Byte)
    (ss : Session) (s t : State) : Prop :=
  t.port p =
    { s.port p with
      receiver := .answering (answer p status data t) 0
      session := ss
      replay :=
        ⟨if seq = 0 then none else some seq, some (checkByte (envelope code seq args)),
          some (answer p status data t)⟩ } ∧
  ∀ q, q ≠ p → t.port q = s.port q

/-- A command is carried out: answered OK with this data, its lease renewed, and nothing but the
named parts (and the sending port's engine) touched. -/
def CarriedOut (c : Command) (p : Port) (seq : Byte) (args data : List Byte) (touched : List Part)
    (s t : State) : Prop :=
  Answered p c.code seq args .ok data (renewed (s.session p)) s t ∧
    KeepsAllBut (.ports :: touched) s t

/-- A command is refused: answered with the status alone, its lease renewed, and nothing but the
sending port's engine touched (R162). -/
def RefusedWith (code : Byte) (p : Port) (seq : Byte) (args : List Byte) (status : Status)
    (s t : State) : Prop :=
  Answered p code seq args status [] (renewed (s.session p)) s t ∧ KeepsAllBut [.ports] s t

/-- A framing error is answered: the port answers BAD_FRAME, and neither its session record, its
replay record nor anything else is touched (R153, R154). -/
def AnsweredBadFrame (p : Port) (s t : State) : Prop :=
  t.port p = { s.port p with receiver := .answering (answer p .badFrame [] s) 0 } ∧
  (∀ q, q ≠ p → t.port q = s.port q) ∧ KeepsAllBut [.ports] s t

/-! ## Cycles -/

/-- No block's event of a REFCLK cycle stands ahead of it or behind it. -/
abbrev CountsInStep (s : State) : Prop :=
  s.captureTurn = .inStep ∧ ∀ p : Port, (s.port p).turn = .inStep

/-- A session whose lease is counted (R132). -/
abbrev Session.Counted (ss : Session) : Prop := ss.state = .attached ∧ ss.leasePeriod ≠ 0

/-- A session whose next counted cycle is its lease's expiry (R132). -/
abbrev Session.Expiring (ss : Session) : Prop :=
  ss.Counted ∧ ss.unitPhase = 65535 ∧ ss.leaseRemaining.toNat ≤ 1

/-- No lease runs out on a cycle that holds these counts back. -/
abbrev NoLeaseRunsOut (held : Held) (s : State) : Prop :=
  ∀ p : Port, held.leases.getLsbD p.val = false → ¬ (s.session p).Expiring

/-- A count of cycles left, after one cycle: its last cycle ends it (R88, R99). -/
def oneLess : Option (BitVec 16) → Option (BitVec 16)
  | none => none
  | some w => if w.toNat ≤ 1 then none else some (w - 1)

/-- A session record after one counted cycle that is not its lease's expiry (R132). -/
def Session.oneCycle (ss : Session) : Session :=
  if ss.Counted then
    if ss.unitPhase = 65535 then
      { ss with unitPhase := 0, leaseRemaining := ss.leaseRemaining - 1 }
    else { ss with unitPhase := ss.unitPhase + 1 }
  else ss

/-- A trigger line record after one counted cycle (R88). -/
def TriggerLine.oneCycle (l : TriggerLine) : TriggerLine :=
  { l with
    level := if l.pulse ≠ none ∧ oneLess l.pulse = none then .idle else l.level
    pulse := oneLess l.pulse }

/-- The state in which a cycle's advance finds the queue: every pulse is counted, and the timeline
is as the advance leaves it (R89). -/
def State.advancedTo (s : State) (tl : Timeline) : State :=
  { s with lines := s.lines.map TriggerLine.oneCycle, timeline := tl }

/-- The capture unit has counted a cycle for every open window and sampled every pin, none of which
has changed (R98, R99). -/
abbrev WindowsCounted (s t : State) : Prop :=
  ∀ c : CaptureId,
    t.cap c =
      { s.cap c with window := oneLess (s.cap c).window, sample := some (s.cap c).pin }

/-- One REFCLK cycle has counted the windows and each lease, unless it held them back (R98, R99,
R132). -/
abbrev WindowsAndLeasesCounted (held : Held) (s t : State) : Prop :=
  (if held.capture = true then t.captures = s.captures ∧ t.captureTurn = .behind
  else WindowsCounted s t ∧ t.captureTurn = .inStep) ∧
  ∀ p : Port,
    t.port p =
      if held.leases.getLsbD p.val then { s.port p with turn := .behind }
      else { s.port p with session := (s.session p).oneCycle }

/-- One REFCLK cycle has counted every pulse, and the windows and each lease unless it held them back
(R88, R99, R132). -/
abbrev CycleCounted (held : Held) (s t : State) : Prop :=
  (∀ l : LineId, t.line l = (s.line l).oneCycle) ∧ WindowsAndLeasesCounted held s t

/-- A TIMELINE note has arrived at the queue of every ATTACHED port, and nothing else has (R18). -/
abbrev TimelineNoteSent (op : TimelineOp) (before second : Tick) (s t : State) : Prop :=
  ∀ q : Port,
    t.noteQueue q =
      if (s.session q).state = .attached then
        (s.noteQueue q).arrive (.timeline op before second)
      else s.noteQueue q

/-! ## Edges -/

/-- The edge between two successive samples (R98). -/
abbrev EdgeFrom (sample : Option Level) (level : Level) (edge : Edge) : Prop :=
  (sample = some .low ∧ level = .high ∧ edge = .rise) ∨
    (sample = some .high ∧ level = .low ∧ edge = .fall)

/-- An edge select selects an edge (R100). -/
abbrev Selected (sel : EdgeSelect) (edge : Edge) : Prop :=
  sel = .both ∨ (sel = .rise ∧ edge = .rise) ∨ (sel = .fall ∧ edge = .fall)

/-- A sample of a line at a level shows an edge that its edge select selects (R98, R100). -/
abbrev ShowsSelected (r : CaptureLine) (level : Level) : Prop :=
  (r.sample = some .low ∧ level = .high ∧ (r.edgeSelect = .rise ∨ r.edgeSelect = .both)) ∨
    (r.sample = some .high ∧ level = .low ∧ (r.edgeSelect = .fall ∨ r.edgeSelect = .both))

/-- A line sampled at a level presents an edge that it accepts: a selected one, no window being open
after the count of the cycle (R98, R100). -/
abbrev Accepts (r : CaptureLine) (level : Level) : Prop :=
  ShowsSelected r level ∧ oneLess r.window = none

/-- The edge event of the coming cycle or the one that the last cycle held back can be taken. -/
abbrev CanSample (early : Bool) (s : State) : Prop :=
  s.rstN = .high ∧ s.captureTurn = if early = true then .inStep else .behind

/-- One line comes before another in the order in which the capture unit takes their edges. -/
abbrev TakenBefore (order : List CaptureId) (c d : CaptureId) : Prop :=
  (order ++ List.finRange 8).idxOf c < (order ++ List.finRange 8).idxOf d

/-! ## Teardown -/

/-- Every block has given up what port `p` held (R42, R68, R79, R94, R112, R125, R137, R146). The
port engines are not spoken of. -/
def TornDown (p : Port) (cause : HandoverCause) (s t : State) : Prop :=
  (∀ i : SlotId,
    t.slot i = if s.ownsSlot p i then ⟨(s.slot i).gen + 1, none⟩ else s.slot i) ∧
  t.queue = s.queue.filter (fun i => !s.ownsSlot p i) ∧
  (∀ q : Port, t.quota q = if q = p then { s.quota p with usage := 0 } else s.quota q) ∧
  (∀ l : LineId,
    t.line l =
      if (s.line l).owner = some p then
        { s.line l with owner := none, level := .idle, pulse := none }
      else s.line l) ∧
  (∀ c : CaptureId,
    let r : CaptureLine :=
      if (s.cap c).owner = some p then
        { s.cap c with
          owner := none, edgeSelect := .off, holdoff := 0, mode := .all, window := none,
          suppressed := 0 }
      else s.cap c
    (t.cap c) =
      { r with
        waiting := (s.cap c).waiting.filter (fun i => !s.ownsSlot p i)
        subscribers := (t.cap c).subscribers } ∧
    ∀ q : Port, peek (t.cap c).subscribers q = (peek (s.cap c).subscribers q && q != p)) ∧
  (if s.authority.holder = some p then
    t.authority = ⟨s.authority.waitList.head?, s.authority.waitList.tail⟩ ∧
    ∀ q : Port,
      t.noteQueue q =
        if q = p then ⟨[], false⟩
        else if s.authority.waitList.head? = some q then
          (s.noteQueue q).arrive (.authority p cause)
        else s.noteQueue q
  else
    t.authority =
      { s.authority with waitList := s.authority.waitList.filter (fun q => q != p) } ∧
    ∀ q : Port, t.noteQueue q = if q = p then ⟨[], false⟩ else s.noteQueue q) ∧
  KeepsAllBut [.slots, .queue, .quotas, .lines, .captures, .notes, .ports, .authority] s t

/-! ## Entries -/

/-- An ARMED place. -/
def Place.isArmed : Place → Bool
  | .armed _ _ _ => true
  | _ => false

/-- A WAITING place on a capture line. -/
def Place.waitsOn (c : CaptureId) : Place → Bool
  | .waiting d _ => d == c
  | _ => false

/-- What a host asks for in an ARM, an ARM_ON_CAPTURE or a MODIFY: its flags and its optional
fields; a line action as its line byte, operation byte and width. `unread` is the flags bit that no
command examines (R51, R55, R58, R169). -/
structure EntryRequest where
  anchor : Anchor
  notify : Bool
  refuseIfPast : Bool
  after : Bool
  unread : Bool
  period : Option (BitVec 32)
  count : Option (BitVec 16)
  line : Option (Byte × Byte × BitVec 16)
deriving DecidableEq, Repr

/-- The flags byte of a request (R169). -/
def EntryRequest.flags (r : EntryRequest) : Byte :=
  (if r.anchor = .relative then 0x01 else 0) ||| (if r.notify then 0x02 else 0) |||
  (if r.refuseIfPast then 0x04 else 0) ||| (if r.after then 0x08 else 0) |||
  (if r.period ≠ none then 0x10 else 0) ||| (if r.count ≠ none then 0x20 else 0) |||
  (if r.line ≠ none then 0x40 else 0) ||| (if r.unread then 0x80 else 0)

/-- The optional fields of a request, in their order (R51). -/
def EntryRequest.optionBytes (r : EntryRequest) : List Byte :=
  (match r.period with | none => [] | some p => be32 p) ++
  (match r.count with | none => [] | some c => be16 c) ++
  (match r.line with | none => [] | some a => [a.1, a.2.1] ++ be16 a.2.2)

/-- The argument bytes of an ARM: tag, flags, due, options (R51). -/
def armArgs (tag : BitVec 16) (due : Tick) (r : EntryRequest) : List Byte :=
  be16 tag ++ [r.flags] ++ be48 due ++ r.optionBytes

/-- The argument bytes of an ARM_ON_CAPTURE: tag, flags, line, offset, options (R55). -/
def armOnCaptureArgs (tag : BitVec 16) (line : Byte) (offset : BitVec 32) (r : EntryRequest) :
    List Byte :=
  be16 tag ++ [r.flags] ++ [line] ++ be32 offset ++ r.optionBytes

/-- The argument bytes of a MODIFY: handle, flags, due, period and count. The flags it does not
examine are those of `r`, whatever they are (R58). -/
def modifyArgs (handle : BitVec 16) (due : Tick) (r : EntryRequest) : List Byte :=
  be16 handle ++ [r.flags] ++ be48 due ++ { r with line := none }.optionBytes

/-- R52 step 1: what makes a request BAD_ARGUMENT. -/
abbrev EntryRequest.Bad (r : EntryRequest) : Prop :=
  (r.count ≠ none ∧ r.period = none) ∨ r.period = some 0 ∨ r.count = some 0 ∨
  (r.notify = false ∧ r.line = none) ∨
  (r.line.any (fun a => 15 < a.1.toNat || 3 < a.2.1.toNat || (a.2.1 == 3 && a.2.2 == 0)) = true)

/-- R52 step 2: the line action names a line that the port does not own. -/
abbrev EntryRequest.NamesOthersLine (r : EntryRequest) (p : Port) (s : State) : Prop :=
  ∃ l : LineId, r.line.any (fun a => a.1.toNat == l.val) = true ∧ (s.line l).owner ≠ some p

/-- The operation that an operation byte and a width name; a width is kept for a PULSE alone (R45,
R169). -/
def namedOp (op : Byte) (width : BitVec 16) : LineOp :=
  if op = 0 then .set else if op = 1 then .clear else if op = 2 then .toggle else .pulse width

/-- The line action of a request that is not bad. -/
def EntryRequest.lineAction (r : EntryRequest) : Option LineAction :=
  r.line.map (fun a => ⟨Fin.ofNat 16 a.1.toNat, namedOp a.2.1 a.2.2⟩)

/-- The entry that a request of port `p` makes (R54, R56). -/
def EntryRequest.toEntry (r : EntryRequest) (p : Port) (tag : BitVec 16) (place : Place) : Entry :=
  ⟨p, tag, r.anchor, r.notify, r.period, r.count, r.lineAction, place⟩

/-- The due that a request asks for (R53). -/
def EntryRequest.due (r : EntryRequest) (value : Tick) (t : Tick) : Tick :=
  if r.after then t + value else value

/-- A due that R53 refuses: an offset of H or more, or a value H or more from T. -/
abbrev EntryRequest.OutsideHorizon (r : EntryRequest) (value t : Tick) : Prop :=
  if r.after then 70368744177664 ≤ value.toNat
  else 70368744177664 ≤ distance t value ∨ distance t value ≤ -70368744177664

/-- R52 step 4: a past due with refuse-if-past set. -/
abbrev EntryRequest.RefusedPast (r : EntryRequest) (value t : Tick) : Prop :=
  r.refuseIfPast = true ∧ r.after = false ∧ distance t value < 0

/-- The slot is the FREE slot with the lowest index (R73). -/
abbrev LowestFree (i : SlotId) (s : State) : Prop :=
  s.entry i = none ∧ ∀ j : SlotId, j < i → s.entry j ≠ none

/-- A sum over the four ports. -/
def overPorts (f : Port → Nat) : Nat := f 0 + f 1 + f 2 + f 3

/-- The size S of the shared pool: the slots that no reserve takes (R71). -/
def poolSize (s : State) : Nat := 256 - overPorts (fun p => (s.quota p).reserve)

/-- The shared use: what the usages exceed their reserves by (R71). -/
def sharedUse (s : State) : Nat :=
  overPorts (fun p => (s.quota p).usage - (s.quota p).reserve)

/-- R72: the port has room, in its reserve or in the shared pool. -/
abbrev HasRoom (p : Port) (s : State) : Prop :=
  (s.quota p).usage < (s.quota p).reserve ∨ sharedUse s < poolSize s

/-- The usage of one port is one higher, and the allocation table is otherwise as before (R70). -/
abbrev UsageRaised (p : Port) (s t : State) : Prop :=
  ∀ q : Port,
    t.quota q = if q = p then { s.quota p with usage := (s.quota p).usage + 1 } else s.quota q

/-- A handle names the entry `e` of port `p` (R49, R50). -/
abbrev NamesOwn (p : Port) (h : BitVec 16) (i : SlotId) (e : Entry) (s : State) : Prop :=
  h = BitVec.ofNat 8 i.val ++ (s.slot i).gen ∧ s.entry i = some e ∧ e.owner = p

/-- One slot holds what is given and every other slot is as before. -/
abbrev SlotBecomes (i : SlotId) (sl : Slot) (s t : State) : Prop :=
  ∀ j : SlotId, t.slot j = if j = i then sl else s.slot j

/-- One trigger line's record is what is given and every other is as before. -/
abbrev LineBecomes (l : LineId) (r : TriggerLine) (s t : State) : Prop :=
  ∀ k : LineId, t.line k = if k = l then r else s.line k

/-- One capture line's record is what is given and every other is as before. -/
abbrev CaptureBecomes (c : CaptureId) (r : CaptureLine) (s t : State) : Prop :=
  ∀ k : CaptureId, t.cap k = if k = c then r else s.cap k

/-- One notification queue is what is given and every other is as before. -/
abbrev QueueBecomes (p : Port) (n : NoteQueue) (s t : State) : Prop :=
  ∀ q : Port, t.noteQueue q = if q = p then n else s.noteQueue q

/-- The late mark of an entry that joins the queue while the timeline is not RUNNING (R26). -/
def joiningMark (t due : Tick) (held : Option LateMark) : Option LateMark :=
  if held = none ∧ distance t due < 0 then some .past else held

/-- An entry after a step of the timeline from `t` to `t'` that does not fire it (R36, R37). -/
def steppedEntry (running : Bool) (t t' : Tick) (e : Entry) : Entry :=
  match e.place, e.anchor with
  | .armed due seq late, .relative => { e with place := .armed (due + (t' - t)) seq late }
  | .armed due seq late, .absolute =>
    if running = true then e
    else if 0 < distance t' due then { e with place := .armed due seq none }
    else if late = none ∧ 0 ≤ distance t due ∧ t' ≠ t then
      { e with place := .armed due seq (some .stepped) }
    else e
  | _, _ => e

/-- An ARMED ABSOLUTE entry stands at this due. -/
abbrev AbsoluteDue (i : SlotId) (due : Tick) (s : State) : Prop :=
  ∃ e ∈ s.entry i, e.anchor = .absolute ∧ e.place.isArmed = true ∧ s.due i = due

/-! ## Firings -/

/-- The firing of an entry is its last: it has no period, or its count is 1 (R32, R34). -/
def Entry.endsAtFiring (e : Entry) : Bool :=
  e.period == none || e.count.any (fun c => c.toNat ≤ 1)

/-- The grid points after its due that an entry has reached at `t` (R33). -/
def Entry.pointsPassed (e : Entry) (t due : Tick) : Nat :=
  match e.period with
  | none => 0
  | some p => (-(distance t due)).toNat / p.toNat

/-- The record of a slot whose entry has fired: FREE with the next generation after its last firing,
otherwise re-armed at the first grid point strictly ahead of `t` with the arm sequence given (R32,
R33, R34). -/
def Slot.afterFiring (sl : Slot) (t : Tick) (seq : BitVec 32) : Slot :=
  match sl.entry with
  | some e =>
    if e.endsAtFiring then ⟨sl.gen + 1, none⟩
    else
      match e.place with
      | .armed due _ _ =>
        ⟨sl.gen,
          some { e with
            count := e.count.map (fun c => c - 1)
            place :=
              .armed (due + BitVec.ofNat 48 ((e.pointsPassed t due + 1) * (e.period.getD 0).toNat))
                seq none }⟩
      | _ => sl
  | none => sl

/-- The cause that a firing reports: the first row of R27's table that applies. The last line is its
row for an arrival past its due; no row covers a START that finds an unmarked entry past its due,
which no run reaches (R28; log entry 14). -/
def reportedCause (ev : FiringEvent) (late : Option LateMark) (t due : Tick) : Cause :=
  if late = some .past then .past
  else if late = some .stepped then .stepped
  else if ev = .step then .stepped
  else if ev = .advance then .onTime
  else if distance t due = 0 then .onTime
  else .past

/-- The FIRED note of a slot's entry when it fires in a state, and the port it goes to, if it has
notify (R30). -/
def State.firedNote (ev : FiringEvent) (s : State) (i : SlotId) : Option (Port × Note) :=
  match s.entry i with
  | some e =>
    match e.place with
    | .armed due _ late =>
      if e.notify then
        some (e.owner,
          .fired (BitVec.ofNat 8 i.val ++ (s.slot i).gen) e.tag due s.t
            (reportedCause ev late s.t due) (BitVec.ofNat 16 (min (e.pointsPassed s.t due) 65535))
            e.endsAtFiring)
      else none
    | _ => none
  | none => none

/-- A port's queue once the FIRED notes of these firings have arrived at it, one after another
(R35, R119). -/
def State.firedQueue (s : State) (ev : FiringEvent) (order : List SlotId) (q : Port)
    (queue : NoteQueue) : NoteQueue :=
  ((order.filterMap (s.firedNote ev)).filter (fun x => x.1 == q)).foldl
    (fun n x => n.arrive x.2) queue

/-- The operation that a slot's entry applies to a line when it fires, if any (R31). -/
def State.firedOp (s : State) (l : LineId) (i : SlotId) : Option LineOp :=
  match s.entry i with
  | some e => e.action.bind (fun a => if a.line = l then some a.op else none)
  | none => none

/-- The slots of an order whose entries are re-armed by their firing. -/
def State.rearmed (s : State) (order : List SlotId) : List SlotId :=
  order.filter (fun i => !(s.entry i).any Entry.endsAtFiring)

/-- The entries of these slots have fired in this order: each is freed, or re-armed with the next
arm sequence; their line actions are applied one after another; every other slot stands (R29, R31
to R35, R91). Their notes are told by `firedQueue`. -/
abbrev Fired (order : List SlotId) (s t : State) : Prop :=
  (∀ i : SlotId,
    t.slot i =
      if i ∈ order then
        (s.slot i).afterFiring s.t (s.armSeq + BitVec.ofNat 32 ((s.rearmed order).idxOf i))
      else s.slot i) ∧
  t.queue = s.queue.filter (fun i => !order.contains i) ++ s.rearmed order ∧
  t.armSeq = s.armSeq + BitVec.ofNat 32 (s.rearmed order).length ∧
  (∀ q : Port,
    t.quota q =
      { s.quota q with
        usage :=
          (s.quota q).usage -
            (order.filter (fun i =>
              (s.entry i).any (fun e => e.endsAtFiring && e.owner == q))).length }) ∧
  ∀ l : LineId,
    t.line l = (order.filterMap (s.firedOp l)).foldl (fun r op => op.apply r) (s.line l)

/-- These are the queue's entries that `which` picks, in queue order: by distance from T, and those
with one due in the order in which they joined (R20). -/
abbrev InQueueOrder (order : List SlotId) (which : SlotId → Bool) (s : State) : Prop :=
  order.Perm (s.queue.filter which) ∧
  order.Pairwise (fun i j =>
    distance s.t (s.due i) < distance s.t (s.due j) ∨
      (s.due i = s.due j ∧ s.queue.idxOf i < s.queue.idxOf j))

/-- The slots that fire at an arrival: the arriving one when its due is reached in a RUNNING
timeline, otherwise none (R26). -/
def firesAtArrival (i : SlotId) (due : Tick) (s : State) : List SlotId :=
  if s.timeline.state = .running ∧ distance s.t due ≤ 0 then [i] else []

/-- An entry of a slot joins the end of the deadline queue, with the next arm sequence (R20, R21). -/
def State.joined (s : State) (i : SlotId) (e : Entry) (due : Tick) (late : Option LateMark) :
    State :=
  { s.modSlot i (fun sl => { sl with entry := some { e with place := .armed due s.armSeq late } })
    with
    queue := s.queue.filter (fun j => j != i) ++ [i]
    armSeq := s.armSeq + 1 }

/-! ## Laws that every event keeps -/

/-- A LOSS record. -/
def Note.isLoss : Note → Bool
  | .loss _ => true
  | _ => false

/-- A queue holds at most 32 records, at most 31 of them ordinary notes, and a queue of 32 ends in a
LOSS record (R117, R118). -/
abbrev NotesFit (s : State) : Prop :=
  ∀ p : Port,
    (s.noteQueue p).records.length ≤ 32 ∧
    ((s.noteQueue p).records.filter (fun n => !n.isLoss)).length ≤ 31 ∧
    ((s.noteQueue p).records.length = 32 →
      (s.noteQueue p).records.getLast?.any Note.isLoss = true)

/-- A trigger line record as R81 and the second law of R85 allow it: an unowned line is IDLE, and a
pulse, of one cycle or more, stands on an owned ACTIVE line alone. -/
abbrev TriggerLine.Fits (l : TriggerLine) : Prop :=
  (l.owner = none → l.level = .idle) ∧
  (l.pulse ≠ none → l.level = .active ∧ l.owner ≠ none) ∧ l.pulse ≠ some 0

/-- The two laws of R85: every line record fits, and the line action of every entry names a line
that the entry's owner owns, a PULSE with a width of 1 or more (R45). -/
abbrev LinesFit (s : State) : Prop :=
  (∀ l : LineId, (s.line l).Fits) ∧
  ∀ i : SlotId,
    (s.entry i).all (fun e =>
      e.action.all (fun a => (s.line a.line).owner == some e.owner && a.op != .pulse 0)) = true

/-- The slot placement law (R19, R46, R103): the queue holds exactly the ARMED entries, the waiting
list of a line exactly the entries that wait on it, each once. -/
abbrev Placed (s : State) : Prop :=
  (s.queue.Nodup ∧
    ∀ i : SlotId, i ∈ s.queue ↔ (s.entry i).any (fun e => e.place.isArmed) = true) ∧
  ∀ c : CaptureId, (s.cap c).waiting.Nodup ∧
    ∀ i : SlotId, i ∈ (s.cap c).waiting ↔ (s.entry i).any (fun e => e.place.waitsOn c) = true

/-- The allocation table's laws (R69, R70, R71): each usage counts the port's entries, the reserves
fit in the store and under the ceilings, and the shared use fits in the shared pool. -/
abbrev AllocationFits (s : State) : Prop :=
  (∀ p : Port, (s.quota p).usage = (allSlots.filter (s.ownsSlot p)).length) ∧
  overPorts (fun p => (s.quota p).reserve) ≤ 256 ∧
  (∀ p : Port, (s.quota p).reserve ≤ (s.quota p).ceiling ∧ (s.quota p).ceiling ≤ 256) ∧
  sharedUse s ≤ poolSize s

/-- The authority record's laws (R142): no port waits twice, the holder does not wait, and a port
waits only for a holder. -/
abbrev AuthorityFits (s : State) : Prop :=
  s.authority.waitList.Nodup ∧
  (∀ p : Port, s.authority.holder = some p → p ∉ s.authority.waitList) ∧
  (s.authority.waitList ≠ [] → s.authority.holder ≠ none)

/-- A port owns no entry, trigger line or capture line, subscribes to none, has an empty queue with
attention disabled, and neither holds nor awaits the authority (R137). -/
abbrev OwnsNothing (p : Port) (s : State) : Prop :=
  (∀ i : SlotId, s.ownsSlot p i = false) ∧
  (∀ l : LineId, (s.line l).owner ≠ some p) ∧
  (∀ c : CaptureId, (s.cap c).owner ≠ some p ∧ peek (s.cap c).subscribers p = false) ∧
  s.noteQueue p = ⟨[], false⟩ ∧
  s.authority.holder ≠ some p ∧ p ∉ s.authority.waitList

/-- The authority record fits, and a port that is not ATTACHED owns nothing (R137, R142). -/
abbrev Ownership (s : State) : Prop :=
  AuthorityFits s ∧ ∀ p : Port, (s.session p).state ≠ .attached → OwnsNothing p s

/-- A slew record as R1 allows it: a remainder that is not 0 and lies between 0 and the installed
amount, a spacing of 16 or more, a count below the spacing. -/
abbrev Slew.Fits (r : Slew) : Prop :=
  ((0 < r.remaining.toInt ∧ r.remaining.toInt ≤ r.amount.toInt) ∨
    (r.amount.toInt ≤ r.remaining.toInt ∧ r.remaining.toInt < 0)) ∧
  -2147483648 < r.amount.toInt ∧ 16 ≤ r.spacing.toNat ∧ r.count.toNat < r.spacing.toNat

/-- A slew in progress fits its record (R1, R12, R13). -/
abbrev SlewFits (s : State) : Prop := ∀ r ∈ s.timeline.slew, r.Fits

/-- A capture line without an owner has the default configuration and no open window, an open window
has a cycle or more left, and the last sample of a pin, absent while RST_N is low, is its level (R97,
R98, R106, R113). -/
abbrev CapturesFit (s : State) : Prop :=
  ∀ c : CaptureId,
    ((s.cap c).owner = none →
      (s.cap c).edgeSelect = .off ∧ (s.cap c).holdoff = 0 ∧ (s.cap c).mode = .all ∧
      (s.cap c).window = none) ∧
    (s.cap c).window ≠ some 0 ∧
    ((s.cap c).sample = none ∨ (s.rstN = .high ∧ (s.cap c).sample = some (s.cap c).pin))

/-- A session record as R127 and R132 allow it: the lease is counted, one unit or more being left,
exactly in ATTACHED with a lease period of 1 or more. -/
abbrev Session.Fits (ss : Session) : Prop :=
  ss.leasePeriod.toNat ≤ 4095 ∧ ss.leaseRemaining.toNat ≤ ss.leasePeriod.toNat ∧
  (ss.leaseRemaining ≠ 0 ↔ ss.state = .attached ∧ ss.leasePeriod ≠ 0) ∧
  (ss.state ≠ .attached → ss.unitPhase = 0)

/-- A receiver as R151 and R156 allow it: the bytes of a command stop before its check byte and
announce 24 arguments or fewer, and a response being shifted out has a byte left. -/
def Receiver.fits : Receiver → Bool
  | .receiving (_ :: _ :: len :: args) _ => len.toNat ≤ 24 && args.length ≤ len.toNat
  | .answering r sent => sent < r.bytes.length
  | _ => true

/-- A port engine's laws (R127, R151, R158, R159): its session record fits, its receiver fits and is
IDLE while its select is high or RST_N is low, and its replay record holds no sequence 0 and a
response with its replay flag clear. -/
abbrev PortsFit (s : State) : Prop :=
  ∀ p : Port,
    (s.session p).Fits ∧ (s.port p).receiver.fits = true ∧
    ((s.port p).select = .high ∨ s.rstN = .low → (s.port p).receiver = .idle) ∧
    (s.port p).replay.lastSeq ≠ some 0 ∧
    (s.port p).replay.stored.all (fun r => !r.replay) = true

/-- An entry's times as R22, R28 and R45 allow them: a due strictly within the horizon, and ahead of
T while the timeline is RUNNING; a late mark only on a reached entry of a timeline that is not
RUNNING; a remaining distance below the horizon, 0 when the entry is marked; a period that is not
0. -/
def entryFits (running : Bool) (t : Tick) (e : Entry) : Bool :=
  e.period != some 0 &&
  match e.place with
  | .armed due _ late =>
    decide (-70368744177664 < distance t due) && decide (distance t due < 70368744177664) &&
      (!running || decide (0 < distance t due)) &&
      (late.isNone || (!running && decide (distance t due ≤ 0)))
  | .waiting _ _ => true
  | .paused remaining late =>
    decide (remaining.toNat < 70368744177664) && (late.isNone || remaining == 0)

/-- Every entry stands in its place with times that fit, and none stands while RST_N is low (R22,
R28, R43, R48). -/
abbrev DeadlinesFit (s : State) : Prop :=
  Placed s ∧ (∀ i : SlotId, (s.entry i).all (entryFits s.running s.t) = true) ∧
  (s.rstN = .low → ∀ i : SlotId, s.entry i = none)

end Sys2Proof.Machine
end

