-- ==== Sys2Proof/WellFormed.lean ====
section
/-! DEFINITION. Which terms of `Instr` are events the 416's outside can present. -/

namespace Sys2Proof

/-- Argument bytes that a frame can carry up to its check byte (R153). -/
def argsFit (args : List Byte) : Bool := args.length ≤ 24

/-- A command is well formed when the outside can present it under its row's name: a frame's length
byte is 24 or less (R153), BAD_FRAME_LENGTH carries a length of 25 or more (R153), BAD_FRAME a check
byte that is not the CRC (R154), REPLAY a sequence other than 0 (R155), UNKNOWN_COMMAND a code that
names no command (R163), CAPTURE_EDGE an order that names no line twice (R98). -/
def Instr.wellFormed : Instr → Bool
  | .powerOn | .deviceReset | .resetRelease => true
  | .timelineAdvance _ | .slewCycle _ | .slewDone _ | .refclkCycle _ => true
  | .pulseExpiry _ | .holdoffWindowClose _ | .leaseUnitBoundary _ | .leaseExpiry _ => true
  | .captureEdge _ order _ => decide order.Nodup
  | .frameBegin _ | .frameEnd _ | .responseShiftedOut _ => true
  | .byteReceived _ _ => true
  | .badFrameLength _ _ _ len => 25 ≤ len.toNat
  | .badFrame _ code seq args check => argsFit args && check != frameCheck code seq args
  | .replay _ _ seq args => argsFit args && seq != 0
  | .unknownCommand _ code _ args => argsFit args && (Command.ofCode code).isNone
  | .status _ _ args | .attach _ _ args | .detach _ _ args | .readTime _ _ args
  | .start _ _ args | .halt _ _ args | .step _ _ args | .slew _ _ args
  | .claimAuthority _ _ args | .releaseAuthority _ _ args | .setReserves _ _ args
  | .setCeiling _ _ args | .arm _ _ args | .armOnCapture _ _ args | .modify _ _ args
  | .pause _ _ args | .resume _ _ args | .cancel _ _ args | .queryEntry _ _ args
  | .listEntries _ _ args | .claimLine _ _ args | .releaseLine _ _ args | .driveLine _ _ args
  | .readLines _ _ args | .claimCapture _ _ args | .releaseCapture _ _ args
  | .configureCapture _ _ args | .subscribe _ _ args | .unsubscribe _ _ args
  | .readCapture _ _ args | .fetchNotes _ _ args | .setAttention _ _ args => argsFit args

end Sys2Proof
end

