-- ==== Sys2Proof/Certificates/Slice0/Obligations.lean ====
section
/-! DEFINITION. The statements for the provers. A statement about a host command says what its frame
does once it has arrived on an ATTACHED port (or, where the command is admitted elsewhere, on any)
and is taken: the status it answers, the data, and every part of the device it leaves alone. That the
row of a host command is the arrival of the rest of its frame, and that commands wait in one queue, is
the model's choice (log entries 3 and 4). -/

open Sys2Proof Sys2Proof.Machine

/-! ## The step -/

/-- A step carries out the command at the front of the queue on the state with the queue's rest. An
empty queue idles: that clause is the model's choice (log entry 2). -/
def Obligations.StepTakesTheFrontCommand : Prop :=
  ∀ (c : Instr) (rest : List Instr) (s : State),
    Sys2Proof.Machine.step { s with pending := c :: rest } = exec c { s with pending := rest } ∧
    Sys2Proof.Machine.step { s with pending := [] } = .next { s with pending := [] }

/-- Every command that the outside can present is carried out to a next state, and no command reads
or changes the commands that wait. -/
def Obligations.EveryCommandAnswers : Prop :=
  ∀ (c : Instr) (s : State), c.wellFormed = true →
    (∃ t, exec c s = .next t ∧ t.pending = s.pending) ∧
    ∀ (l : List Instr) (t : State), exec c s = .next t →
      exec c { s with pending := l } = .next { t with pending := l }

/-! ## Power-on and reset -/

/-- Power-on gives every block the values its rule states (R1, R43, R48, R69, R81, R97, R114, R128,
R142, R151, R159); that it leaves the levels of the input pins, which are the outside's, is the
model's choice (log entry 1). -/
def Obligations.PowerOnValues : Prop :=
  ∀ (s : State),
    ∃ t, exec .powerOn s = .next t ∧
      t.timeline = ⟨0, .idle, none⟩ ∧ t.queue = [] ∧ t.armSeq = 0 ∧
      (∀ i : SlotId, t.slot i = ⟨0, none⟩) ∧ (∀ p : Port, t.quota p = ⟨0, 256, 0⟩) ∧
      (∀ l : LineId, t.line l = ⟨none, .low, .idle, none⟩) ∧
      (∀ c : CaptureId,
        t.cap c =
          ⟨none, .off, 0, .all, Vector.replicate 4 false, none, 0, none, [], (s.cap c).pin, none⟩) ∧
      (∀ p : Port, t.noteQueue p = ⟨[], false⟩) ∧
      (∀ p : Port,
        t.port p =
          ⟨(s.port p).select, .idle, ⟨.detached, 0, 0, 0, 0, .none⟩, ⟨none, none, none⟩,
            .inStep⟩) ∧
      t.authority = ⟨none, []⟩ ∧ t.captureTurn = .inStep ∧ t.resetCause = .powerOn ∧
      t.rstN = s.rstN ∧ t.pending = s.pending

/-- The fall of RST_N frees every entry without firing and returns every block to its values after a
reset; epochs stand, and a port that had a session ends with DEVICE_RESET (R48, R69, R95, R113,
R126, R128, R150, R158). What the timeline holds while RST_N is low is not spoken of. At its rise
the timeline is IDLE at 0 with no slew, the arm sequence counter is 0, the receivers are IDLE, the
next sample of each CAP pin is its first, and nothing else changes (R1, R21, R43, R98). That the
levels of selects and CAP pins stand is the model's choice (log entry 1). -/
def Obligations.ResetPinRestoresTheDevice : Prop :=
  ∀ (s : State),
    (s.rstN = .high →
      ∃ t, exec .deviceReset s = .next t ∧
        t.rstN = .low ∧ t.resetCause = .resetPin ∧ t.queue = [] ∧
        (∀ i : SlotId,
          t.slot i = if s.entry i = none then s.slot i else ⟨(s.slot i).gen + 1, none⟩) ∧
        (∀ p : Port, t.quota p = ⟨0, 256, 0⟩) ∧
        (∀ l : LineId, t.line l = ⟨none, .low, .idle, none⟩ ∧ trgPin t l = .low) ∧
        (∀ c : CaptureId,
          t.cap c =
            ⟨none, .off, 0, .all, Vector.replicate 4 false, none, 0, none, [], (s.cap c).pin, none⟩) ∧
        (∀ p : Port, t.noteQueue p = ⟨[], false⟩ ∧ attnPin t p = .high) ∧
        (∀ p : Port,
          t.port p =
            ⟨(s.port p).select, .idle,
              ⟨.detached, (s.session p).epoch, 0, 0, 0,
                if (s.session p).state = .detached then .none else .deviceReset⟩,
              ⟨none, none, none⟩, .inStep⟩) ∧
        t.authority = ⟨none, []⟩ ∧ t.captureTurn = .inStep ∧ t.pending = s.pending) ∧
    (s.rstN = .low →
      ∃ t, exec .resetRelease s = .next t ∧
        t.rstN = .high ∧ t.timeline = ⟨0, .idle, none⟩ ∧ t.armSeq = 0 ∧
        (∀ c : CaptureId, t.cap c = { s.cap c with sample := none }) ∧
        (∀ p : Port, t.port p = { s.port p with receiver := .idle }) ∧
        KeepsAllBut [.rstN, .timeline, .armSeq, .captures, .ports] s t)

/-! ## Cycles of the reference clock -/

/-- A cycle that finds the timeline stopped counts pulses, windows and leases, samples the CAP pins
and does nothing else; a cycle that finds it RUNNING, applies no slew and reaches no entry also
advances T by one tick (R3, R13, R16, R88, R98, R99, R132). What the cycle holds back is counted
later (log entry 7). -/
def Obligations.CycleCountsAndAdvances : Prop :=
  ∀ (held : Held) (row : Instr) (s : State),
    (row = .timelineAdvance held ∨ row = .refclkCycle held) → s.rstN = .high →
    CountsInStep s → NoLeaseRunsOut held s →
    (s.timeline.state ≠ .running →
      ∃ t, exec row s = .next t ∧ CycleCounted held s t ∧
        KeepsAllBut [.lines, .captures, .captureTurn, .ports] s t) ∧
    (s.timeline.state = .running →
      (∀ r ∈ s.timeline.slew, r.count.toNat + 1 < r.spacing.toNat) →
      (∀ i ∈ s.queue, 0 < distance (s.t + 1) (s.due i)) →
      ∃ t, exec row s = .next t ∧ CycleCounted held s t ∧
        t.timeline =
          ⟨s.t + 1, .running, s.timeline.slew.map (fun r => { r with count := r.count + 1 })⟩ ∧
        KeepsAllBut [.timeline, .lines, .captures, .captureTurn, .ports] s t)

/-- The advance of a RUNNING timeline by one tick, with no slew in progress or on a cycle before the
slew cycle, fires exactly the entries whose due it lands on, in the order in which they joined, on
lines whose pulses the cycle has counted: each sends its note, applies its line action, and is freed
or re-armed; every other entry stands, and a slew in progress counts the cycle (R13, R24, R29 to
R34, R89). What the cycle holds back is the model's choice (log entry 7). -/
def Obligations.AdvanceFiresTheReached : Prop :=
  ∀ (held : Held) (row : Instr) (s : State),
    (row = .timelineAdvance held ∨ row = .refclkCycle held) → s.rstN = .high → CountsInStep s →
    NoLeaseRunsOut held s → s.timeline.state = .running →
    (∀ r ∈ s.timeline.slew, r.count.toNat + 1 < r.spacing.toNat) → DeadlinesFit s →
    let tl : Timeline :=
      ⟨s.t + 1, .running, s.timeline.slew.map (fun r => { r with count := r.count + 1 })⟩
    let u : State := s.advancedTo tl
    let order : List SlotId := s.queue.filter (fun i => s.due i == s.t + 1)
    ∃ t, exec row s = .next t ∧ t.timeline = tl ∧ Fired order u t ∧
      (∀ q : Port, t.noteQueue q = u.firedQueue .advance order q (s.noteQueue q)) ∧
      WindowsAndLeasesCounted held s t ∧
      KeepsAllBut
        [.timeline, .slots, .queue, .armSeq, .quotas, .lines, .captures, .captureTurn, .notes,
          .ports] s t

/-- A slew cycle: T advances by two ticks on a positive slew, which fires the entries at the first
tick and then those at the second, and by none on a negative one; one tick less remains and the
count is 0. The cycle that leaves none removes the slew and then sends SLEW_DONE with T after the
cycle and the installed amount, a field of the model's slew record (log entry 11), to every ATTACHED
port (R4, R13, R14, R18). What the cycle holds back is the model's choice (log entry 7), and so is
that SLEW_DONE changes nothing on a slew cycle that completes no slew and that SLEW_CYCLE on the
last tick completes it (log entry 8). -/
def Obligations.SlewCycleApplies : Prop :=
  ∀ (held : Held) (r : Slew) (s : State), s.rstN = .high → CountsInStep s →
    NoLeaseRunsOut held s → s.timeline.state = .running → s.timeline.slew = some r → r.Fits →
    r.count.toNat + 1 = r.spacing.toNat → DeadlinesFit s →
    let last : Bool := r.remaining == 1 || r.remaining == -1
    let u : State :=
      s.advancedTo
        ⟨if 0 < r.remaining.toInt then s.t + 2 else s.t, .running,
          if last then none
          else
            some { r with
              remaining := if 0 < r.remaining.toInt then r.remaining - 1 else r.remaining + 1
              count := 0 }⟩
    let order : List SlotId :=
      if 0 < r.remaining.toInt then
        s.queue.filter (fun i => s.due i == s.t + 1) ++
          s.queue.filter (fun i => s.due i == s.t + 2)
      else []
    ∃ t, exec (.slewCycle held) s = .next t ∧ exec (.refclkCycle held) s = .next t ∧
      exec (.timelineAdvance held) s = .next t ∧
      exec (.slewDone held) s = .next (if last then t else s) ∧
      t.timeline = u.timeline ∧ Fired order u t ∧
      (∀ q : Port,
        t.noteQueue q =
          if last ∧ (s.session q).state = .attached then
            (u.firedQueue .advance order q (s.noteQueue q)).arrive
              (.timeline .slewDone u.t (r.amount.signExtend 48))
          else u.firedQueue .advance order q (s.noteQueue q)) ∧
      WindowsAndLeasesCounted held s t ∧
      KeepsAllBut
        [.timeline, .slots, .queue, .armSeq, .quotas, .lines, .captures, .captureTurn, .notes,
          .ports] s t

/-- PULSE_EXPIRY is the REFCLK cycle, taken whole, on which the line's pulse has its last cycle: it
does what REFCLK_CYCLE does there, and the line is IDLE with no pulse unless an entry drives it on
the same cycle (R88, R89). HOLDOFF_WINDOW_CLOSE is the capture unit's event on which the line's
window has its last cycle: it counts every window, samples every pin, and changes nothing else (R98,
R99). A row whose event cannot occur changes nothing (the model's choice, log entry 8); that
PULSE_EXPIRY is the whole cycle, and where the capture unit's event stands against it, is the
model's reading (log entry 7). -/
def Obligations.PulseExpiresAndWindowCloses : Prop :=
  ∀ (l : LineId) (c : CaptureId) (s : State), s.rstN = .high →
    (CountsInStep s → NoLeaseRunsOut Held.nothing s →
      if (s.line l).pulse = some 1 then
        ∃ t, exec (.pulseExpiry l) s = .next t ∧ exec (.refclkCycle Held.nothing) s = .next t ∧
          ((∀ i ∈ s.queue, s.firedOp l i = none) →
            t.line l = { s.line l with level := .idle, pulse := none })
      else exec (.pulseExpiry l) s = .next s) ∧
    (if (s.cap c).window = some 1 ∧ s.captureTurn ≠ .ahead then
      ∃ t, exec (.holdoffWindowClose c) s = .next t ∧ WindowsCounted s t ∧
        t.captureTurn = (if s.captureTurn = .behind then .inStep else .ahead) ∧
        KeepsAllBut [.captures, .captureTurn] s t
    else exec (.holdoffWindowClose c) s = .next s)

/-- A lease unit boundary brings the unit phase to 0 and lease remaining down by one; the boundary
that brings it to 0 is the lease's expiry, by either row: the session is torn down in every block
and the port is EXPIRED, its lease period and epoch kept (R132, R134, R137). Where the next count is
no boundary the rows change nothing (the model's choice, log entry 8). -/
def Obligations.LeaseBoundaryAndExpiry : Prop :=
  ∀ (p : Port) (s : State), s.rstN = .high → (s.port p).turn = .inStep → AuthorityFits s →
    if (s.session p).Expiring then
      ∃ t, exec (.leaseExpiry p) s = .next t ∧ exec (.leaseUnitBoundary p) s = .next t ∧
        TornDown p .sessionEnd s t ∧
        t.port p =
          { s.port p with
            session :=
              { s.session p with
                state := .expired, leaseRemaining := 0, unitPhase := 0,
                lastEnd := .leaseExpired }
            turn := .ahead } ∧
        ∀ q : Port, q ≠ p → t.port q = s.port q
    else if (s.session p).Counted ∧ (s.session p).unitPhase = 65535 then
      exec (.leaseExpiry p) s = .next s ∧
      ∃ t, exec (.leaseUnitBoundary p) s = .next t ∧
        t.port p =
          { s.port p with
            session :=
              { s.session p with
                unitPhase := 0, leaseRemaining := (s.session p).leaseRemaining - 1 }
            turn := .ahead } ∧
        (∀ q : Port, q ≠ p → t.port q = s.port q) ∧ KeepsAllBut [.ports] s t
    else exec (.leaseUnitBoundary p) s = .next s ∧ exec (.leaseExpiry p) s = .next s

/-! ## Edges -/

/-- An edge event of the capture unit that finds no edge to accept: every open window counts the
cycle, every pin is sampled, and each selected edge inside an open window raises its line's
suppressed count, which stays at 255; an edge that is not selected changes nothing. While RST_N is
low the pins alone change (R98, R99, R100, R113). Whether the event comes before its cycle's advance
is the command's operand (log entries 7 and 9); one that is not to be taken changes nothing (log
entry 8). -/
def Obligations.EdgeNotAccepted : Prop :=
  ∀ (levels : Vector Level 8) (order : List CaptureId) (early : Bool) (s : State),
    (s.rstN = .low →
      ∃ t, exec (.captureEdge levels order early) s = .next t ∧
        (∀ c : CaptureId, t.cap c = { s.cap c with pin := peek levels c }) ∧
        KeepsAllBut [.captures] s t) ∧
    (s.rstN = .high → ¬ CanSample early s →
      exec (.captureEdge levels order early) s = .next s) ∧
    (CanSample early s → (∀ c : CaptureId, ¬ Accepts (s.cap c) (peek levels c)) →
      ∃ t, exec (.captureEdge levels order early) s = .next t ∧
        (∀ c : CaptureId,
          t.cap c =
            { s.cap c with
              pin := peek levels c, sample := some (peek levels c),
              window := oneLess (s.cap c).window,
              suppressed :=
                if ShowsSelected (s.cap c) (peek levels c) then
                  (if (s.cap c).suppressed = 255 then 255 else (s.cap c).suppressed + 1)
                else (s.cap c).suppressed }) ∧
        t.captureTurn = (if early = true then .ahead else .inStep) ∧
        KeepsAllBut [.captures, .captureTurn] s t)

/-- What an accepted edge does, whichever other lines present edges at the same event: for the last
line of the event's order to accept one, the event differs from the event at which that pin has not
changed by this alone. The edge is stamped with T, becomes the last capture, opens a window when the
holdoff is 1 or more, is told to each subscriber with the suppressed count that stood, returns that
count to 0 and releases the whole waiting list in mode ALL or its head in mode OLDEST. The released
entries join the queue in list order, each at the timestamp plus its offset with the next arm
sequence; then, while the timeline is RUNNING, those with offset 0 fire in that order (R41, R57,
R98, R101, R102, R104). Whether the event comes before its cycle's advance is the command's operand
(log entry 7), and so is the order of its lines (log entry 9). -/
def Obligations.EdgeAccepted : Prop :=
  ∀ (levels : Vector Level 8) (order : List CaptureId) (early : Bool) (c : CaptureId) (edge : Edge)
    (s : State), CanSample early s → Placed s →
    EdgeFrom (s.cap c).sample (peek levels c) edge → Selected (s.cap c).edgeSelect edge →
    oneLess (s.cap c).window = none →
    (∀ d : CaptureId, TakenBefore order c d → ¬ Accepts (s.cap d) (peek levels d)) →
    let unchanged : Level := if edge = .rise then .low else .high
    ∃ u t,
      exec (.captureEdge (levels.set c.val unchanged) order early) s = .next u ∧
      exec (.captureEdge levels order early) s = .next t ∧
      let r : CaptureLine := u.cap c
      let released : List SlotId := if r.mode = .all then r.waiting else r.waiting.take 1
      let v : State :=
        { u with
          slots := Vector.ofFn (fun i : SlotId =>
            ⟨(u.slot i).gen,
              (u.entry i).map (fun e =>
                match e.place with
                | .waiting _ offset =>
                  if i ∈ released then
                    { e with
                      place :=
                        .armed (s.t + offset.setWidth 48)
                          (u.armSeq + BitVec.ofNat 32 (released.idxOf i)) none }
                  else e
                | _ => e)⟩)
          queue := u.queue ++ released
          armSeq := u.armSeq + BitVec.ofNat 32 released.length }
      let fires : List SlotId :=
        if s.timeline.state = .running then released.filter (fun i => v.due i == s.t) else []
      CaptureBecomes c
        { r with
          pin := peek levels c, sample := some (peek levels c),
          last := some ⟨s.t, edge, s.timeline.state != .running⟩,
          window := if r.holdoff = 0 then none else some r.holdoff,
          suppressed := 0,
          waiting := r.waiting.filter (fun i => !released.contains i) } u t ∧
      Fired fires v t ∧
      (∀ p : Port,
        t.noteQueue p =
          v.firedQueue .arrival fires p
            (if peek r.subscribers p then
              (u.noteQueue p).arrive
                (.capture c edge s.t (s.timeline.state != .running) (s.cap c).suppressed)
            else u.noteQueue p)) ∧
      KeepsAllBut [.slots, .queue, .armSeq, .quotas, .lines, .captures, .notes] u t

/-! ## Runs -/

/-- Over any run of REFCLK cycles, whatever the state of the timeline: a pulse of w cycles left is
ACTIVE for exactly w counted cycles. After fewer it has that many less left, from the w-th on its
line is IDLE with no pulse (R88). The line is one that no entry's line action names and whose owner
has no lease counted, so that neither a firing nor a teardown reaches it. That each cycle is a
command of the queue, taken whole, is the model's choice (log entries 3 and 7). -/
def Obligations.PulseLastsItsWidth : Prop :=
  ∀ (l : LineId) (w : BitVec 16) (n : Nat) (s : State), s.rstN = .high →
    (∀ i : SlotId, s.firedOp l i = none) →
    (∀ p : Port, (s.line l).owner = some p → ¬ (s.session p).Counted) →
    (s.line l).level = .active → (s.line l).pulse = some w → w ≠ 0 →
    ∃ t,
      Host.Core.run Sys2Proof.core n
        { s with pending := List.replicate n (.refclkCycle Held.nothing) } = .next t ∧
      t.pending = [] ∧
      t.line l =
        if n < w.toNat then { s.line l with pulse := some (w - BitVec.ofNat 16 n) }
        else { s.line l with level := .idle, pulse := none }

/-- A lease of P units that no frame renews is counted down one unit every 65,536 cycles and expires
on the (P × 65,536)-th counted cycle after its load, whatever the rest of the part holds (R132,
R134). That each cycle is a command of the queue, taken whole, is the model's choice (log entries 3
and 7). -/
def Obligations.LeaseRunsOut : Prop :=
  ∀ (p : Port) (n : Nat) (s : State), s.rstN = .high → (s.port p).turn = .inStep →
    (s.session p).Counted → (s.session p).leaseRemaining = (s.session p).leasePeriod →
    (s.session p).unitPhase = 0 → n ≤ (s.session p).leasePeriod.toNat * 65536 →
    ∃ t,
      Host.Core.run Sys2Proof.core n
        { s with pending := List.replicate n (.refclkCycle Held.nothing) } = .next t ∧
      t.session p =
        if n < (s.session p).leasePeriod.toNat * 65536 then
          { s.session p with
            leaseRemaining := (s.session p).leasePeriod - BitVec.ofNat 16 (n / 65536)
            unitPhase := BitVec.ofNat 16 (n % 65536) }
        else
          { s.session p with
            state := .expired, leaseRemaining := 0, unitPhase := 0, lastEnd := .leaseExpired }

/-- The first slew cycle is the spacing-th RUNNING cycle after installation: until then each cycle
advances T by one tick and counts one; that cycle advances T by two ticks or by none, so that over
the whole spacing T gains or loses one tick against the clock (R13). That each cycle is a command of
the queue, taken whole, is the model's choice (log entries 3 and 7). -/
def Obligations.SlewSpacing : Prop :=
  ∀ (r : Slew) (n : Nat) (s : State), s.rstN = .high → s.timeline.state = .running →
    s.timeline.slew = some r → r.Fits → r.count = 0 → n ≤ r.spacing.toNat →
    ∃ t,
      Host.Core.run Sys2Proof.core n
        { s with pending := List.replicate n (.refclkCycle Held.nothing) } = .next t ∧
      t.timeline =
        if n < r.spacing.toNat then
          ⟨s.t + BitVec.ofNat 48 n, .running, some { r with count := BitVec.ofNat 16 n }⟩
        else
          ⟨s.t + BitVec.ofNat 48 n + (if 0 < r.remaining.toInt then 1 else -1), .running,
            if r.remaining = 1 ∨ r.remaining = -1 then none
            else
              some { r with
                remaining :=
                  if 0 < r.remaining.toInt then r.remaining - 1 else r.remaining + 1
                count := 0 }⟩

/-- Byte by byte, the code, the sequence, the length and the arguments of a frame are kept in order,
the port status byte being sent the while, and nothing else changes (R151, R152, R164). When a copy
of the status byte is formed is the model's reading (log entry 18). -/
def Obligations.BytesBuildTheFrame : Prop :=
  ∀ (p : Port) (code seq copy : Byte) (args : List Byte) (s : State), s.rstN = .high →
    args.length ≤ 24 → (s.port p).receiver = .receiving [] copy →
    ∃ t,
      Host.Core.run Sys2Proof.core (args.length + 3)
        { s with pending := (envelope code seq args).map (.byteReceived p) } = .next t ∧
      t.port p =
        { s.port p with receiver := .receiving (envelope code seq args) (statusByte s p) } ∧
      (∀ q : Port, q ≠ p → t.port q = s.port q) ∧ t.pending = [] ∧
      KeepsAllBut [.ports, .pending] s t

/-! ## Frames -/

/-- The fall of a select begins a frame in an IDLE receiver, which sends the port status byte: notes
pending in bit 7, the session state in bits 5 and 4, holder in bit 3. While RST_N is low it begins
none. The rise of a select ends the frame in any state of the receiver (R151, R152, R157, R158,
R167). A select that is low already cannot fall (log entry 8), and the first copy of the status byte
is formed at the fall (log entry 18). -/
def Obligations.SelectBeginsAndEndsFrames : Prop :=
  ∀ (p : Port) (s : State),
    (if (s.port p).select = .low then exec (.frameBegin p) s = .next s
    else
      ∃ t, exec (.frameBegin p) s = .next t ∧
        t.port p =
          { s.port p with
            select := .low
            receiver :=
              if s.rstN = .high ∧ (s.port p).receiver = .idle then
                .receiving []
                  ((if (s.noteQueue p).records ≠ [] then 0x80 else 0) |||
                    (match (s.session p).state with
                      | .detached => 0x00 | .attached => 0x10 | .expired => 0x20) |||
                    (if s.authority.holder = some p then 0x08 else 0))
              else (s.port p).receiver } ∧
        (∀ q : Port, q ≠ p → t.port q = s.port q) ∧ KeepsAllBut [.ports] s t) ∧
    ∃ t, exec (.frameEnd p) s = .next t ∧
      t.port p = { s.port p with select := .high, receiver := .idle } ∧
      (∀ q : Port, q ≠ p → t.port q = s.port q) ∧ KeepsAllBut [.ports] s t

/-- A length byte of 25 or more, and a check byte that is not the CRC of the frame, are answered
BAD_FRAME: no block, no session record and no replay record is touched (R153, R154). -/
def Obligations.FramingErrorsChangeNothing : Prop :=
  ∀ (p : Port) (code seq len check : Byte) (args : List Byte) (s : State), s.rstN = .high →
    (25 ≤ len.toNat → (s.port p).receiver.holdsStartOf [code, seq] = true →
      ∃ t, exec (.badFrameLength p code seq len) s = .next t ∧ AnsweredBadFrame p s t) ∧
    (Reads p code seq args s → check ≠ checkByte (envelope code seq args) →
      ∃ t, exec (.badFrame p code seq args check) s = .next t ∧ AnsweredBadFrame p s t)

/-- A good frame that repeats the last taken sequence and check byte is not carried out: the stored
response is sent again with its replay flag set, the lease of an ATTACHED port is renewed, and
nothing else is touched, whichever row the frame arrives by (R155, R159; log entry 6). -/
def Obligations.ReplaySendsTheStoredResponse : Prop :=
  ∀ (p : Port) (code seq : Byte) (args : List Byte) (r : Response) (row : Instr) (s : State),
    (row = .replay p code seq args ∨ row = .unknownCommand p code seq args ∨
      ∃ c : Command, c.code = code ∧ row = c.row p seq args) →
    Reads p code seq args s → IsReplay p seq (checkByte (envelope code seq args)) s →
    (s.port p).replay.stored = some r →
    ∃ t, exec row s = .next t ∧
      t.port p =
        { s.port p with
          receiver := .answering { r with replay := true } 0
          session := renewed (s.session p) } ∧
      (∀ q : Port, q ≠ p → t.port q = s.port q) ∧ KeepsAllBut [.ports] s t

/-- The bytes of a response, written out from its status code, its flags, its length, its data and
the CRC-8 over them, leave HSDO in order, a byte time each, and after the last the receiver is
DRAINING and HSDO reads FFh; RESPONSE_SHIFTED_OUT clocks out the rest (log entry 5). A receiver that
is IDLE or DRAINING reads nothing, and RESPONSE_SHIFTED_OUT, which cannot occur there, changes
nothing (the model's choice, log entry 8) (R151, R156, R167, R168). -/
def Obligations.ResponseIsShiftedOut : Prop :=
  ∀ (p : Port) (b : Byte) (r : Response) (sent : Nat) (s : State), s.rstN = .high →
    (((s.port p).receiver = .idle ∨ (s.port p).receiver = .draining) →
      exec (.byteReceived p b) s = .next s ∧ exec (.responseShiftedOut p) s = .next s) ∧
    ((s.port p).receiver = .answering r sent → sent < r.data.length + 4 →
      hsdo s p = r.onWire[sent]? ∧
      (∃ t, exec (.byteReceived p b) s = .next t ∧
        t.port p =
          { s.port p with
            receiver :=
              if sent + 1 = r.data.length + 4 then .draining else .answering r (sent + 1) } ∧
        (∀ q : Port, q ≠ p → t.port q = s.port q) ∧ KeepsAllBut [.ports] s t) ∧
      ∃ t, exec (.responseShiftedOut p) s = .next t ∧
        t.port p = { s.port p with receiver := .draining } ∧ hsdo t p = some 0xFF ∧
        (∀ q : Port, q ≠ p → t.port q = s.port q) ∧ KeepsAllBut [.ports] s t)

/-- The check byte decides the frame: clocked in after the whole of a command's body, it does what
the frame does as one event, by the command's own row when it is good and by BAD_FRAME's when it is
not (R151, R154, R155; log entries 5 and 6). -/
def Obligations.CheckByteDecidesTheFrame : Prop :=
  ∀ (p : Port) (code seq copy check : Byte) (args : List Byte) (s : State), s.rstN = .high →
    args.length ≤ 24 → (s.port p).receiver = .receiving (envelope code seq args) copy →
    exec (.byteReceived p check) s = exec (.badFrame p code seq args check) s ∧
    (check = checkByte (envelope code seq args) →
      ∀ row : Instr,
        (row = .replay p code seq args ∨ row = .unknownCommand p code seq args ∨
          ∃ c : Command, c.code = code ∧ row = c.row p seq args) →
        exec (.byteReceived p check) s = exec row s)

/-! ## The general order of checks -/

/-- A good frame whose code is none of the listed ones, and one of a known command whose length is
not the one its rule calls for, is taken and refused BAD_COMMAND; for ARM, ARM_ON_CAPTURE and MODIFY
the flags byte, where the frame reaches it, says which length that is (R51, R55, R58, R162, R163).
Each command's code is the one its rule gives. -/
def Obligations.UnknownAndMisfitCommandsAreRefused : Prop :=
  ∀ (p : Port) (code seq : Byte) (args : List Byte) (c : Command) (s : State),
    (code ∉ [0x02, 0x03, 0x04, 0x10, 0x11, 0x12, 0x13, 0x14, 0x20, 0x21, 0x22, 0x23, 0x30, 0x31,
        0x32, 0x33, 0x34, 0x35, 0x36, 0x37, 0x40, 0x41, 0x42, 0x43, 0x50, 0x51, 0x52, 0x53, 0x54,
        0x55, 0x60, 0x61] →
      Reads p code seq args s → ¬ IsReplay p seq (checkByte (envelope code seq args)) s →
      ∃ t, exec (.unknownCommand p code seq args) s = .next t ∧
        RefusedWith code p seq args .badCommand s t) ∧
    (IsTake p c seq args s → ¬ c.LengthRight args →
      ∃ t, exec (c.row p seq args) s = .next t ∧
        RefusedWith c.code p seq args .badCommand s t) ∧
    c.code =
      match c with
      | .status => 0x02 | .attach => 0x03 | .detach => 0x04
      | .readTime => 0x10 | .start => 0x11 | .halt => 0x12 | .step => 0x13 | .slew => 0x14
      | .claimAuthority => 0x20 | .releaseAuthority => 0x21
      | .setReserves => 0x22 | .setCeiling => 0x23
      | .arm => 0x30 | .armOnCapture => 0x31 | .modify => 0x32 | .pause => 0x33
      | .resume => 0x34 | .cancel => 0x35 | .queryEntry => 0x36 | .listEntries => 0x37
      | .claimLine => 0x40 | .releaseLine => 0x41 | .driveLine => 0x42 | .readLines => 0x43
      | .claimCapture => 0x50 | .releaseCapture => 0x51 | .configureCapture => 0x52
      | .subscribe => 0x53 | .unsubscribe => 0x54 | .readCapture => 0x55
      | .fetchNotes => 0x60 | .setAttention => 0x61

/-- Admission by session state, then the authority: a DETACHED port is admitted with STATUS, ATTACH,
READ_TIME and READ_LINES alone, an EXPIRED one with DETACH as well, and an ATTACHED port without the
token is refused the six guarded commands; a refused command has no effect on any block (R136, R148,
R162). -/
def Obligations.AdmissionAndAuthority : Prop :=
  ∀ (p : Port) (c : Command) (seq : Byte) (args : List Byte) (s : State),
    IsTake p c seq args s → c.LengthRight args →
    ((s.session p).state = .detached → c ∉ [.status, .attach, .readTime, .readLines] →
      ∃ t, exec (c.row p seq args) s = .next t ∧
        RefusedWith c.code p seq args .notAttached s t) ∧
    ((s.session p).state = .expired → c ∉ [.status, .attach, .readTime, .readLines, .detach] →
      ∃ t, exec (c.row p seq args) s = .next t ∧ RefusedWith c.code p seq args .expired s t) ∧
    ((s.session p).state = .attached →
      c ∈ [.start, .halt, .step, .slew, .setReserves, .setCeiling] →
      s.authority.holder ≠ some p →
      ∃ t, exec (c.row p seq args) s = .next t ∧
        RefusedWith c.code p seq args .notAuthority s t)

/-- Every take is answered and stored for replay; a status other than OK and PENDING carries no
data, has no effect on any block and renews the lease; PENDING answers CLAIM_AUTHORITY alone; and no
take touches another port's engine, the reset records or the waiting commands (R155, R156, R159,
R161, R162). That a refused ATTACH renews the lease too is the model's reading (log entry 13). -/
def Obligations.EveryTakeIsAnswered : Prop :=
  ∀ (p : Port) (c : Command) (seq : Byte) (args : List Byte) (s : State),
    IsTake p c seq args s →
    ∃ t, exec (c.row p seq args) s = .next t ∧
      t.rstN = s.rstN ∧ t.resetCause = s.resetCause ∧ t.pending = s.pending ∧
      ∃ status data ss,
        Answered p c.code seq args status data ss s t ∧
        (status = .pending → c = .claimAuthority) ∧
        (status ≠ .ok → status ≠ .pending →
          data = [] ∧ ss = renewed (s.session p) ∧ KeepsAllBut [.ports] s t)

/-! ## Session commands -/

/-- STATUS answers the STATUS block of its port, lease remaining as it stood before the renewal, and
changes nothing (R139, R172). That the block has no field for a slew, which R16 has STATUS report, is
the model's choice (log entry 20). -/
def Obligations.StatusReports : Prop :=
  ∀ (p : Port) (seq : Byte) (s : State), IsTake p .status seq [] s →
    ∃ t, exec (.status p seq []) s = .next t ∧
      CarriedOut .status p seq []
        ([match (s.session p).state with
            | .detached => (0 : Byte) | .attached => 1 | .expired => 2,
          (s.session p).epoch] ++
        be16 (s.session p).leasePeriod ++ be16 (s.session p).leaseRemaining ++
        [match (s.session p).lastEnd with
          | .none => (0 : Byte) | .detach => 1 | .leaseExpired => 2 | .deviceReset => 3,
          match s.resetCause with | .powerOn => 0 | .resetPin => 1] ++
        nat16 (s.quota p).reserve ++ nat16 (s.quota p).ceiling ++ nat16 (s.quota p).usage ++
        nat16 (poolSize s) ++ nat16 (sharedUse s) ++
        [BitVec.ofNat 8 (s.noteQueue p).records.length,
          if (s.noteQueue p).attention then 1 else 0,
          match s.authority.holder with | none => 0xFF | some q => BitVec.ofNat 8 q.val,
          if p ∈ s.authority.waitList then
            BitVec.ofNat 8 (s.authority.waitList.idxOf p + 1) else 0,
          match s.timeline.state with | .idle => 0 | .running => 1 | .halted => 2])
        [] s t

/-- ATTACH: a lease period above 4,095 is refused; from DETACHED or EXPIRED a new session begins
with the next epoch and attention enabled; in ATTACHED the lease alone is replaced (R124, R129,
R130). That the refused one renews the lease is the model's reading (log entry 13). -/
def Obligations.AttachBeginsOrRenews : Prop :=
  ∀ (p : Port) (seq : Byte) (lease : BitVec 16) (s : State),
    IsTake p .attach seq (be16 lease) s →
    ∃ t, exec (.attach p seq (be16 lease)) s = .next t ∧
      if 4095 < lease.toNat then RefusedWith 0x03 p seq (be16 lease) .badArgument s t
      else if (s.session p).state = .attached then
        KeepsAllBut [.ports] s t ∧
        Answered p 0x03 seq (be16 lease) .ok ([1, (s.session p).epoch] ++ be16 lease)
          (t.session p) s t ∧
        (t.session p).state = .attached ∧ (t.session p).epoch = (s.session p).epoch ∧
        (t.session p).leasePeriod = lease ∧ (t.session p).leaseRemaining = lease ∧
        (lease ≠ 0 → (t.session p).unitPhase = 0) ∧
        (t.session p).lastEnd = (s.session p).lastEnd
      else
        KeepsAllBut [.ports, .notes] s t ∧
        QueueBecomes p { s.noteQueue p with attention := true } s t ∧
        Answered p 0x03 seq (be16 lease) .ok
          ([if (s.session p).state = .expired then 2 else 0, (s.session p).epoch + 1] ++
            be16 lease)
          (t.session p) s t ∧
        (t.session p).state = .attached ∧ (t.session p).epoch = (s.session p).epoch + 1 ∧
        (t.session p).leasePeriod = lease ∧ (t.session p).leaseRemaining = lease ∧
        (lease ≠ 0 → (t.session p).unitPhase = 0) ∧
        (t.session p).lastEnd = (s.session p).lastEnd

/-- DETACH: in ATTACHED every block gives up what the port held, the port is DETACHED with last end
cause DETACH, and the response tells the epoch and how many entries were freed; in EXPIRED it only
acknowledges the loss (R131, R137). -/
def Obligations.DetachEndsTheSession : Prop :=
  ∀ (p : Port) (seq : Byte) (s : State), IsTake p .detach seq [] s → AuthorityFits s →
    ((s.session p).state = .attached →
      ∃ t, exec (.detach p seq []) s = .next t ∧ TornDown p .sessionEnd s t ∧
        Answered p 0x04 seq [] .ok ([1, (s.session p).epoch] ++ nat16 (s.quota p).usage)
          { s.session p with
            state := .detached, leaseRemaining := 0, unitPhase := 0, lastEnd := .detach }
          s t) ∧
    ((s.session p).state = .expired →
      ∃ t, exec (.detach p seq []) s = .next t ∧
        Answered p 0x04 seq [] .ok [2, (s.session p).epoch, 0, 0]
          { s.session p with state := .detached } s t ∧
        KeepsAllBut [.ports] s t)

/-! ## Timeline commands -/

/-- READ_TIME and READ_LINES are answered in every session state and change nothing: the timeline
record, and for each trigger line in order its owner, idle level and level, and pulse cycles left
(R17, R93, R170). -/
def Obligations.TimeAndLinesAreRead : Prop :=
  ∀ (p : Port) (seq : Byte) (s : State),
    (IsTake p .readTime seq [] s →
      ∃ t, exec (.readTime p seq []) s = .next t ∧
        CarriedOut .readTime p seq []
          (bigEndian 6 s.t.toNat ++
          [match s.timeline.state with
            | .idle => (0 : Byte) | .running => 1 | .halted => 2] ++
          (match s.timeline.slew with
            | none => [0, 0, 0, 0, 0, 0, 0, 0, 0]
            | some r =>
              [1] ++ bigEndian 4 r.remaining.toNat ++ bigEndian 2 r.spacing.toNat ++
                bigEndian 2 r.count.toNat))
          [] s t) ∧
    (IsTake p .readLines seq [] s →
      ∃ t, exec (.readLines p seq []) s = .next t ∧
        CarriedOut .readLines p seq []
          ((List.finRange 16).flatMap (fun l =>
            [match (s.line l).owner with | none => (0xFF : Byte) | some q => BitVec.ofNat 8 q.val,
              (if (s.line l).idleLevel = .high then 0x01 else 0) |||
                (if (s.line l).level = .active then 0x02 else 0)] ++
            be16 ((s.line l).pulse.getD 0)))
          [] s t)

/-- START makes a stopped timeline RUNNING, fires every reached entry in queue order and then sends
the START note; HALT makes a RUNNING one HALTED and sends the HALT note; each is WRONG_STATE in the
other states. Both answer T. The cause of an unmarked entry that a START finds past its due, which
no run reaches, is the model's (log entry 14) (R7, R8, R18, R20, R25). -/
def Obligations.StartAndHalt : Prop :=
  ∀ (p : Port) (seq : Byte) (order : List SlotId) (s : State),
    (IsHolderTake p .start seq [] s → Placed s →
      InQueueOrder order (fun i => distance s.t (s.due i) ≤ 0) s →
      let u : State := { s with timeline := { s.timeline with state := .running } }
      ∃ t, exec (.start p seq []) s = .next t ∧
        if s.timeline.state = .running then RefusedWith 0x11 p seq [] .wrongState s t
        else
          t.timeline = u.timeline ∧ Fired order u t ∧
          (∀ q : Port,
            t.noteQueue q =
              if (s.session q).state = .attached then
                (u.firedQueue .start order q (s.noteQueue q)).arrive (.timeline .start s.t s.t)
              else u.firedQueue .start order q (s.noteQueue q)) ∧
          CarriedOut .start p seq [] (be48 s.t)
            [.timeline, .slots, .queue, .armSeq, .quotas, .lines, .notes] s t) ∧
    (IsHolderTake p .halt seq [] s →
      ∃ t, exec (.halt p seq []) s = .next t ∧
        if s.timeline.state = .running then
          t.timeline = { s.timeline with state := .halted } ∧
          CarriedOut .halt p seq [] (be48 s.t) [.timeline, .notes] s t ∧
          TimelineNoteSent .halt s.t s.t s t
        else RefusedWith 0x12 p seq [] .wrongState s t)

/-- STEP: a form other than ABSOLUTE and OFFSET is BAD_ARGUMENT; an amount of H or more, or one that
carries an ARMED ABSOLUTE entry to the horizon, is RANGE; otherwise T moves, the slew is cut and the
response carries the old and the new T. RELATIVE dues move with T; ABSOLUTE dues stay, take or lose
their marks while the timeline is stopped, and in a RUNNING one fire when they are now reached, in
the new queue order. The notes are SLEW_CUT, where a slew was cut, those of the firings, and STEP
(R9, R10, R15, R36, R37, R38). -/
def Obligations.StepMovesTheTimeline : Prop :=
  ∀ (p : Port) (seq form : Byte) (value : Tick) (order : List SlotId) (s : State),
    IsHolderTake p .step seq (form :: be48 value) s → Placed s →
    let amount : Tick := if form = 0 then value - s.t else value
    let u : State :=
      { s with
        timeline := ⟨s.t + amount, s.timeline.state, none⟩
        slots := s.slots.map (fun sl =>
          ⟨sl.gen,
            sl.entry.map (steppedEntry (s.timeline.state == .running) s.t (s.t + amount))⟩) }
    InQueueOrder order
      (fun i =>
        s.timeline.state == .running && (s.entry i).any (fun e => e.anchor == .absolute) &&
          decide (distance u.t (u.due i) ≤ 0)) u →
    ∃ t, exec (.step p seq (form :: be48 value)) s = .next t ∧
      if 1 < form.toNat then RefusedWith 0x13 p seq (form :: be48 value) .badArgument s t
      else if 70368744177664 ≤ amount.toInt ∨ amount.toInt ≤ -70368744177664 ∨
          ∃ i : SlotId, AbsoluteDue i (s.due i) s ∧
            (70368744177664 ≤ distance s.t (s.due i) - amount.toInt ∨
              distance s.t (s.due i) - amount.toInt ≤ -70368744177664) then
        RefusedWith 0x13 p seq (form :: be48 value) .range s t
      else
        t.timeline = u.timeline ∧ Fired order u t ∧
        (∀ q : Port,
          let cut : NoteQueue :=
            match s.timeline.slew with
            | none => s.noteQueue q
            | some r =>
              (s.noteQueue q).arrive (.timeline .slewCut s.t (r.remaining.signExtend 48))
          t.noteQueue q =
            if (s.session q).state = .attached then
              (u.firedQueue .step order q cut).arrive (.timeline .step s.t (s.t + amount))
            else u.firedQueue .step order q (s.noteQueue q)) ∧
        CarriedOut .step p seq (form :: be48 value) (be48 s.t ++ be48 (s.t + amount))
          [.timeline, .slots, .queue, .armSeq, .quotas, .lines, .notes] s t

/-- SLEW: an amount of −2^31, and a spacing below 16 with an amount that is not 0, are BAD_ARGUMENT;
otherwise a slew in progress is cut, which every ATTACHED port is told with the remainder, and an
amount that is not 0 is installed with count 0; the response carries the remainder of the cut slew
(R12, R15). The installed amount is kept beside it (log entry 11). -/
def Obligations.SlewInstallsAndCuts : Prop :=
  ∀ (p : Port) (seq : Byte) (amount : BitVec 32) (spacing : BitVec 16) (s : State),
    IsHolderTake p .slew seq (be32 amount ++ be16 spacing) s →
    ∃ t, exec (.slew p seq (be32 amount ++ be16 spacing)) s = .next t ∧
      if amount.toInt = -2147483648 ∨ (amount ≠ 0 ∧ spacing.toNat < 16) then
        RefusedWith 0x14 p seq (be32 amount ++ be16 spacing) .badArgument s t
      else
        t.timeline =
          { s.timeline with
            slew := if amount = 0 then none else some ⟨amount, amount, spacing, 0⟩ } ∧
        match s.timeline.slew with
        | none =>
          CarriedOut .slew p seq (be32 amount ++ be16 spacing) [0, 0, 0, 0] [.timeline] s t
        | some r =>
          CarriedOut .slew p seq (be32 amount ++ be16 spacing) (be32 r.remaining)
            [.timeline, .notes] s t ∧
          TimelineNoteSent .slewCut s.t (r.remaining.signExtend 48) s t

/-! ## The authority and the pool -/

/-- CLAIM_AUTHORITY: a free token is granted, its holder keeps it, a waiter keeps its place and any
other port joins the tail of the wait list; the response carries the holder and the sender's place,
with status PENDING for a sender that waits (R143). -/
def Obligations.ClaimAuthority : Prop :=
  ∀ (p : Port) (seq : Byte) (s : State), IsAttachedTake p .claimAuthority seq [] s →
    ∃ t, exec (.claimAuthority p seq []) s = .next t ∧
      match s.authority.holder with
      | none =>
        t.authority = { s.authority with holder := some p } ∧
        CarriedOut .claimAuthority p seq [] [BitVec.ofNat 8 p.val, 0] [.authority] s t
      | some h =>
        if h = p then
          CarriedOut .claimAuthority p seq [] [BitVec.ofNat 8 p.val, 0] [] s t
        else
          t.authority =
            (if p ∈ s.authority.waitList then s.authority
             else { s.authority with waitList := s.authority.waitList ++ [p] }) ∧
          Answered p 0x20 seq [] .pending
            [BitVec.ofNat 8 h.val, BitVec.ofNat 8 (s.authority.waitList.idxOf p + 1)]
            (renewed (s.session p)) s t ∧
          KeepsAllBut [.ports, .authority] s t

/-- RELEASE_AUTHORITY: the holder's token passes to the head of the wait list, which is sent an
AUTHORITY note, or to no port; a waiter leaves the list; any other port is WRONG_STATE. The response
carries the role before and the holder after (R144, R145). -/
def Obligations.ReleaseAuthority : Prop :=
  ∀ (p : Port) (seq : Byte) (s : State), IsAttachedTake p .releaseAuthority seq [] s →
    ∃ t, exec (.releaseAuthority p seq []) s = .next t ∧
      if s.authority.holder = some p then
        match s.authority.waitList with
        | [] =>
          t.authority = ⟨none, []⟩ ∧
          CarriedOut .releaseAuthority p seq [] [0, 0xFF] [.authority] s t
        | next :: rest =>
          t.authority = ⟨some next, rest⟩ ∧
          QueueBecomes next ((s.noteQueue next).arrive (.authority p .release)) s t ∧
          CarriedOut .releaseAuthority p seq [] [0, BitVec.ofNat 8 next.val]
            [.authority, .notes] s t
      else if p ∈ s.authority.waitList then
        t.authority =
          { s.authority with waitList := s.authority.waitList.filter (fun q => q != p) } ∧
        CarriedOut .releaseAuthority p seq []
          [1, match s.authority.holder with | none => 0xFF | some q => BitVec.ofNat 8 q.val]
          [.authority] s t
      else RefusedWith 0x21 p seq [] .wrongState s t

/-- SET_RESERVES and SET_CEILING: refused where a sum of reserves, a reserve against its ceiling or
the claims on the store would not fit; otherwise the named figures alone change and the response
carries the allocation summary after the take (R75, R76, R77). -/
def Obligations.ReservesAndCeilings : Prop :=
  ∀ (p : Port) (seq target : Byte) (r0 r1 r2 r3 ceiling : BitVec 16) (s : State),
    let summary : State → List Byte := fun t =>
      [0, 1, 2, 3].flatMap (fun q : Port => nat16 (t.quota q).reserve) ++
      [0, 1, 2, 3].flatMap (fun q : Port => nat16 (t.quota q).ceiling) ++
      [0, 1, 2, 3].flatMap (fun q : Port => nat16 (t.quota q).usage) ++
      nat16 (poolSize t) ++ nat16 (sharedUse t)
    let reserve : Port → Nat := fun q => [r0, r1, r2, r3][q.val]!.toNat
    (IsHolderTake p .setReserves seq (be16 r0 ++ be16 r1 ++ be16 r2 ++ be16 r3) s →
      ∃ t, exec (.setReserves p seq (be16 r0 ++ be16 r1 ++ be16 r2 ++ be16 r3)) s = .next t ∧
        if 256 < r0.toNat + r1.toNat + r2.toNat + r3.toNat ∨
            (∃ q : Port, (s.quota q).ceiling < reserve q) ∨
            256 < overPorts (fun q => max (s.quota q).usage (reserve q)) then
          RefusedWith 0x22 p seq (be16 r0 ++ be16 r1 ++ be16 r2 ++ be16 r3) .quotaConflict s t
        else
          (∀ q : Port, t.quota q = { s.quota q with reserve := reserve q }) ∧
          CarriedOut .setReserves p seq (be16 r0 ++ be16 r1 ++ be16 r2 ++ be16 r3) (summary t)
            [.quotas] s t) ∧
    (IsHolderTake p .setCeiling seq (target :: be16 ceiling) s →
      ∃ t, exec (.setCeiling p seq (target :: be16 ceiling)) s = .next t ∧
        if 3 < target.toNat ∨ 256 < ceiling.toNat then
          RefusedWith 0x23 p seq (target :: be16 ceiling) .badArgument s t
        else if ceiling.toNat < (s.quota (Fin.ofNat 4 target.toNat)).reserve then
          RefusedWith 0x23 p seq (target :: be16 ceiling) .quotaConflict s t
        else
          (∀ q : Port,
            t.quota q =
              if q.val = target.toNat then { s.quota q with ceiling := ceiling.toNat }
              else s.quota q) ∧
          CarriedOut .setCeiling p seq (target :: be16 ceiling) (summary t) [.quotas] s t)

/-! ## Entry commands -/

/-- The handle checks: a handle whose slot is FREE or whose generation differs is STALE, another
port's entry is NOT_OWNER, and an entry in a state the command does not accept is WRONG_STATE; the
refused command changes no slot and no queue (R49, R50). -/
def Obligations.HandleChecks : Prop :=
  ∀ (p : Port) (seq : Byte) (c : Command) (i : SlotId) (gen : BitVec 8) (rest : List Byte)
    (s : State),
    c ∈ [.modify, .pause, .resume, .cancel, .queryEntry] →
    IsAttachedTake p c seq (BitVec.ofNat 8 i.val :: gen :: rest) s →
    c.LengthRight (BitVec.ofNat 8 i.val :: gen :: rest) →
    ∃ t, exec (c.row p seq (BitVec.ofNat 8 i.val :: gen :: rest)) s = .next t ∧
      match s.entry i with
      | none => RefusedWith c.code p seq (BitVec.ofNat 8 i.val :: gen :: rest) .stale s t
      | some e =>
        if (s.slot i).gen ≠ gen then
          RefusedWith c.code p seq (BitVec.ofNat 8 i.val :: gen :: rest) .stale s t
        else if e.owner ≠ p then
          RefusedWith c.code p seq (BitVec.ofNat 8 i.val :: gen :: rest) .notOwner s t
        else
          match c, e.place with
          | .modify, .waiting _ _ | .modify, .paused _ _ | .pause, .waiting _ _
          | .pause, .paused _ _ | .resume, .armed _ _ _ | .resume, .waiting _ _ =>
            RefusedWith c.code p seq (BitVec.ofNat 8 i.val :: gen :: rest) .wrongState s t
          | _, _ => True

/-- ARM: the checks in their order, each with its status, and then the FREE slot with the lowest
index holds the entry, in the queue behind those that joined earlier, with the next arm sequence,
the port's usage one higher. An entry past its due in a stopped timeline is marked PAST; one that is
reached while the timeline is RUNNING fires at the take (R26, R51 to R54, R72, R73). The refusals,
OVER_CEILING and NO_SLOT among them, hold with and without a FREE slot in the store; a grant finds
one in a store that obeys the laws. -/
def Obligations.ArmJoinsTheQueue : Prop :=
  ∀ (p : Port) (seq : Byte) (tag : BitVec 16) (value : Tick) (r : EntryRequest)
    (s : State),
    IsAttachedTake p .arm seq (armArgs tag value r) s →
    let due : Tick := r.due value s.t
    let late : Option LateMark :=
      if s.timeline.state = .running then none else joiningMark s.t due none
    ∃ t, exec (.arm p seq (armArgs tag value r)) s = .next t ∧
      if r.Bad then RefusedWith 0x30 p seq (armArgs tag value r) .badArgument s t
      else if r.NamesOthersLine p s then
        RefusedWith 0x30 p seq (armArgs tag value r) .notOwner s t
      else if r.OutsideHorizon value s.t then
        RefusedWith 0x30 p seq (armArgs tag value r) .range s t
      else if r.RefusedPast value s.t then
        RefusedWith 0x30 p seq (armArgs tag value r) .past s t
      else if (s.quota p).ceiling ≤ (s.quota p).usage then
        RefusedWith 0x30 p seq (armArgs tag value r) .overCeiling s t
      else if ¬ HasRoom p s then
        RefusedWith 0x30 p seq (armArgs tag value r) .noSlot s t
      else
        AllocationFits s → Placed s →
        ∃ i : SlotId, LowestFree i s ∧
          let u : State :=
            (s.modQuota p (fun q => { q with usage := q.usage + 1 })).joined i
              (r.toEntry p tag (.paused 0 none)) due late
          Fired (firesAtArrival i due s) u t ∧
          (∀ q : Port,
            t.noteQueue q = u.firedQueue .arrival (firesAtArrival i due s) q (s.noteQueue q)) ∧
          CarriedOut .arm p seq (armArgs tag value r)
            ([BitVec.ofNat 8 i.val, (s.slot i).gen] ++ be48 due)
            [.slots, .queue, .armSeq, .quotas, .lines, .notes] s t

/-- What a host sees of a one-shot ARM that is reached while the timeline is RUNNING: its FIRED
note, ON_TIME at T and PAST when past, its line action, and the slot FREE again with the next
generation, so that the handle it returns is stale; the arm sequence counter has moved on and the
port's usage stands (R26, R29, R32, R54). -/
def Obligations.ArmFiresAtOnce : Prop :=
  ∀ (p : Port) (seq : Byte) (tag : BitVec 16) (value : Tick) (r : EntryRequest) (i : SlotId)
    (s : State),
    IsAttachedTake p .arm seq (armArgs tag value r) s → LowestFree i s → i ∉ s.queue →
    s.timeline.state = .running → distance s.t (r.due value s.t) ≤ 0 →
    ¬ r.Bad → ¬ r.NamesOthersLine p s → ¬ r.OutsideHorizon value s.t →
    ¬ r.RefusedPast value s.t → (s.quota p).usage < (s.quota p).ceiling → HasRoom p s →
    r.period = none →
    ∃ t, exec (.arm p seq (armArgs tag value r)) s = .next t ∧
      SlotBecomes i ⟨(s.slot i).gen + 1, none⟩ s t ∧ t.armSeq = s.armSeq + 1 ∧
      (if r.notify then
        QueueBecomes p
          ((s.noteQueue p).arrive
            (.fired (BitVec.ofNat 8 i.val ++ (s.slot i).gen) tag (r.due value s.t) s.t
              (if r.due value s.t = s.t then .onTime else .past) 0 true)) s t
      else t.notes = s.notes) ∧
      (match r.lineAction with
        | none => t.lines = s.lines
        | some a => LineBecomes a.line (a.op.apply (s.line a.line)) s t) ∧
      CarriedOut .arm p seq (armArgs tag value r)
        ([BitVec.ofNat 8 i.val, (s.slot i).gen] ++ be48 (r.due value s.t))
        [.slots, .armSeq, .notes, .lines] s t

/-- ARM_ON_CAPTURE: the checks in their order, each with its status, and then the FREE slot with the
lowest index holds the WAITING entry, at the tail of the line's waiting list, the port's usage one
higher; refuse-if-past and basis are not examined (R55, R56). The refusals hold with and without a
FREE slot in the store; a grant finds one in a store that obeys the laws (R72, R73). -/
def Obligations.ArmOnCaptureWaits : Prop :=
  ∀ (p : Port) (seq line : Byte) (tag : BitVec 16) (offset : BitVec 32) (r : EntryRequest)
    (s : State),
    IsAttachedTake p .armOnCapture seq (armOnCaptureArgs tag line offset r) s →
    ∃ t, exec (.armOnCapture p seq (armOnCaptureArgs tag line offset r)) s = .next t ∧
      if 7 < line.toNat ∨ r.Bad then
        RefusedWith 0x31 p seq (armOnCaptureArgs tag line offset r) .badArgument s t
      else if r.NamesOthersLine p s then
        RefusedWith 0x31 p seq (armOnCaptureArgs tag line offset r) .notOwner s t
      else if (s.quota p).ceiling ≤ (s.quota p).usage then
        RefusedWith 0x31 p seq (armOnCaptureArgs tag line offset r) .overCeiling s t
      else if ¬ HasRoom p s then
        RefusedWith 0x31 p seq (armOnCaptureArgs tag line offset r) .noSlot s t
      else
        AllocationFits s →
        let c : CaptureId := Fin.ofNat 8 line.toNat
        ∃ i : SlotId, LowestFree i s ∧
          SlotBecomes i ⟨(s.slot i).gen, some (r.toEntry p tag (.waiting c offset))⟩ s t ∧
          CaptureBecomes c { s.cap c with waiting := (s.cap c).waiting ++ [i] } s t ∧
          UsageRaised p s t ∧
          CarriedOut .armOnCapture p seq (armOnCaptureArgs tag line offset r)
            [BitVec.ofNat 8 i.val, (s.slot i).gen] [.slots, .captures, .quotas] s t

/-- MODIFY of the port's own ARMED entry: the checks in their order, each with its status, and then
the entry leaves and rejoins the queue at its new due with the next arm sequence and no earlier
mark, its period and count replaced where given, and fires at the take when it is reached while the
timeline is RUNNING; the flags it does not examine are not read (R26, R58, R59). -/
def Obligations.ModifyMovesTheEntry : Prop :=
  ∀ (p : Port) (seq : Byte) (h : BitVec 16) (value : Tick) (r : EntryRequest) (i : SlotId)
    (e : Entry) (s : State),
    IsAttachedTake p .modify seq (modifyArgs h value r) s → NamesOwn p h i e s →
    e.place.isArmed = true →
    let due : Tick := r.due value s.t
    let late : Option LateMark :=
      if s.timeline.state = .running then none else joiningMark s.t due none
    let u : State :=
      s.joined i
        { e with
          period := if r.period = none then e.period else r.period
          count := if r.count = none then e.count else r.count } due late
    ∃ t, exec (.modify p seq (modifyArgs h value r)) s = .next t ∧
      if r.period = some 0 ∨ r.count = some 0 ∨
          (r.count ≠ none ∧ e.period = none ∧ r.period = none) then
        RefusedWith 0x32 p seq (modifyArgs h value r) .badArgument s t
      else if r.OutsideHorizon value s.t then
        RefusedWith 0x32 p seq (modifyArgs h value r) .range s t
      else if r.RefusedPast value s.t then
        RefusedWith 0x32 p seq (modifyArgs h value r) .past s t
      else
        Fired (firesAtArrival i due s) u t ∧
        (∀ q : Port,
          t.noteQueue q = u.firedQueue .arrival (firesAtArrival i due s) q (s.noteQueue q)) ∧
        CarriedOut .modify p seq (modifyArgs h value r) (be48 due)
          [.slots, .queue, .armSeq, .quotas, .lines, .notes] s t

/-- PAUSE of the port's own ARMED entry takes it out of the queue with its distance from T, or 0
when that is below zero; RESUME of a PAUSED one puts it back that far ahead of T with the next arm
sequence, and it fires at the take when that is no distance and the timeline is RUNNING. A late mark
is kept by both (R26, R60, R61). -/
def Obligations.PauseAndResume : Prop :=
  ∀ (p : Port) (seq : Byte) (h : BitVec 16) (i : SlotId) (e : Entry) (s : State),
    NamesOwn p h i e s →
    (∀ due n late, e.place = .armed due n late → IsAttachedTake p .pause seq (be16 h) s →
      let r : Tick := if distance s.t due < 0 then 0 else due - s.t
      ∃ t, exec (.pause p seq (be16 h)) s = .next t ∧
        SlotBecomes i ⟨(s.slot i).gen, some { e with place := .paused r late }⟩ s t ∧
        t.queue = s.queue.filter (fun j => j != i) ∧
        CarriedOut .pause p seq (be16 h) (be48 r) [.slots, .queue] s t) ∧
    (∀ r late, e.place = .paused r late → IsAttachedTake p .resume seq (be16 h) s →
      i ∉ s.queue → 0 ≤ r.toInt →
      let u : State := s.joined i e (s.t + r) late
      ∃ t, exec (.resume p seq (be16 h)) s = .next t ∧
        Fired (firesAtArrival i (s.t + r) s) u t ∧
        (∀ q : Port,
          t.noteQueue q =
            u.firedQueue .arrival (firesAtArrival i (s.t + r) s) q (s.noteQueue q)) ∧
        CarriedOut .resume p seq (be16 h) (be48 (s.t + r))
          [.slots, .queue, .armSeq, .quotas, .lines, .notes] s t)

/-- CANCEL frees the port's own entry, whatever its state: the slot is FREE with the next
generation, the usage one lower, the entry gone from the queue or from its waiting list; no note is
sent and no line moves, and the response carries the state the entry held (R47, R63). -/
def Obligations.CancelFreesTheEntry : Prop :=
  ∀ (p : Port) (seq : Byte) (h : BitVec 16) (i : SlotId) (e : Entry) (s : State),
    NamesOwn p h i e s → IsAttachedTake p .cancel seq (be16 h) s → Placed s →
    ∃ t, exec (.cancel p seq (be16 h)) s = .next t ∧
      SlotBecomes i ⟨(s.slot i).gen + 1, none⟩ s t ∧
      (∀ q : Port,
        t.quota q =
          if q = p then { s.quota p with usage := (s.quota p).usage - 1 } else s.quota q) ∧
      t.queue = s.queue.filter (fun j => j != i) ∧
      (∀ c : CaptureId,
        t.cap c = { s.cap c with waiting := (s.cap c).waiting.filter (fun j => j != i) }) ∧
      CarriedOut .cancel p seq (be16 h)
        [match e.place with | .armed _ _ _ => (1 : Byte) | .waiting _ _ => 2 | .paused _ _ => 3]
        [.slots, .queue, .captures, .quotas] s t

/-- QUERY_ENTRY answers the 38 bytes of the entry descriptor, and LIST_ENTRIES the handles and
states of the first eight of the port's entries from its start index upward with a flag that tells
whether there are more; neither changes anything (R64, R65, R170, R172). -/
def Obligations.EntriesAreRead : Prop :=
  ∀ (p : Port) (seq start : Byte) (h : BitVec 16) (i : SlotId) (e : Entry) (s : State),
    (NamesOwn p h i e s → IsAttachedTake p .queryEntry seq (be16 h) s →
      ∃ t, exec (.queryEntry p seq (be16 h)) s = .next t ∧
        CarriedOut .queryEntry p seq (be16 h)
          (be16 h ++
          [match e.place with | .armed _ _ _ => (1 : Byte) | .waiting _ _ => 2 | .paused _ _ => 3,
            (if e.anchor = .relative then 0x01 else 0) ||| (if e.notify then 0x02 else 0) |||
            (if e.period ≠ none then 0x10 else 0) ||| (if e.count ≠ none then 0x20 else 0) |||
            (if e.action ≠ none then 0x40 else 0)] ++
          be16 e.tag ++
          (match e.place with
            | .armed due n _ => be48 due ++ be32 n ++ [0, 0, 0, 0, 0, 0, 0, 0, 0, 0, 0]
            | .waiting c offset =>
              [0, 0, 0, 0, 0, 0, 0, 0, 0, 0, 0, 0, 0, 0, 0, 0, BitVec.ofNat 8 c.val] ++
                be32 offset
            | .paused r _ =>
              [0, 0, 0, 0, 0, 0, 0, 0, 0, 0] ++ be48 r ++ [0, 0, 0, 0, 0]) ++
          be32 (e.period.getD 0) ++ be16 (e.count.getD 0) ++
          (match e.action with
            | none => [0, 0, 0, 0]
            | some ⟨l, .set⟩ => [BitVec.ofNat 8 l.val, 0, 0, 0]
            | some ⟨l, .clear⟩ => [BitVec.ofNat 8 l.val, 1, 0, 0]
            | some ⟨l, .toggle⟩ => [BitVec.ofNat 8 l.val, 2, 0, 0]
            | some ⟨l, .pulse w⟩ => [BitVec.ofNat 8 l.val, 3] ++ be16 w) ++
          [match e.place with
            | .armed _ _ (some .past) | .paused _ (some .past) => 1
            | .armed _ _ (some .stepped) | .paused _ (some .stepped) => 2
            | _ => 0])
          [] s t) ∧
    (IsAttachedTake p .listEntries seq [start] s →
      let own : List SlotId :=
        (List.finRange 256).filter (fun j =>
          decide (start.toNat ≤ j.val) && (s.entry j).any (fun f => f.owner == p))
      ∃ t, exec (.listEntries p seq [start]) s = .next t ∧
        CarriedOut .listEntries p seq [start]
          ([BitVec.ofNat 8 (min own.length 8), if 8 < own.length then 1 else 0] ++
          (own.take 8).flatMap (fun j =>
            [BitVec.ofNat 8 j.val, (s.slot j).gen,
              match (s.entry j).map Entry.place with
              | some (.armed _ _ _) => (1 : Byte) | some (.waiting _ _) => 2
              | some (.paused _ _) => 3 | none => 0]))
          [] s t)

/-! ## Trigger lines -/

/-- CLAIM_LINE gives an unowned line, or the sender's own, to the sender, at rest at the idle level
given; RELEASE_LINE takes it away, at rest with its idle level kept, unless an entry of the sender
names it. Each check has its status, and nothing else is touched (R83, R84). -/
def Obligations.LinesAreClaimedAndReleased : Prop :=
  ∀ (p : Port) (seq a b : Byte) (s : State),
    let l : LineId := Fin.ofNat 16 a.toNat
    let v : Level := if b = 0 then .low else .high
    (IsAttachedTake p .claimLine seq [a, b] s →
      ∃ t, exec (.claimLine p seq [a, b]) s = .next t ∧
        if 15 < a.toNat ∨ 1 < b.toNat then RefusedWith 0x40 p seq [a, b] .badArgument s t
        else if (s.line l).owner ≠ none ∧ (s.line l).owner ≠ some p then
          RefusedWith 0x40 p seq [a, b] .owned s t
        else
          LineBecomes l ⟨some p, v, .idle, none⟩ s t ∧
          CarriedOut .claimLine p seq [a, b]
            [BitVec.ofNat 8 p.val, if v = .high then 1 else 0] [.lines] s t) ∧
    (IsAttachedTake p .releaseLine seq [a] s →
      ∃ t, exec (.releaseLine p seq [a]) s = .next t ∧
        if 15 < a.toNat then RefusedWith 0x41 p seq [a] .badArgument s t
        else if (s.line l).owner ≠ some p then RefusedWith 0x41 p seq [a] .notOwner s t
        else if ∃ i : SlotId, (s.entry i).any (fun e =>
            e.owner == p && e.action.any (fun x => x.line == l)) = true then
          RefusedWith 0x41 p seq [a] .inUse s t
        else
          LineBecomes l { s.line l with owner := none, level := .idle, pulse := none } s t ∧
          CarriedOut .releaseLine p seq [a] [] [.lines] s t)

/-- DRIVE_LINE applies its operation to a line of the sender's by the table of R87, here written
out: SET, CLEAR and TOGGLE end a pulse, a PULSE never shortens one. The response carries the line's
levels and the pulse cycles left after the take, and no other line moves (R87, R92). -/
def Obligations.DriveLineFollowsTheTable : Prop :=
  ∀ (p : Port) (seq a op : Byte) (w : BitVec 16) (s : State),
    IsAttachedTake p .driveLine seq ([a, op] ++ be16 w) s →
    let l : LineId := Fin.ofNat 16 a.toNat
    ∃ t, exec (.driveLine p seq ([a, op] ++ be16 w)) s = .next t ∧
      if 15 < a.toNat ∨ 3 < op.toNat ∨ (op = 3 ∧ w = 0) then
        RefusedWith 0x42 p seq ([a, op] ++ be16 w) .badArgument s t
      else if (s.line l).owner ≠ some p then
        RefusedWith 0x42 p seq ([a, op] ++ be16 w) .notOwner s t
      else
        LineBecomes l
          { s.line l with
            level :=
              if op = 1 ∨ (op = 2 ∧ (s.line l).level = .active) then .idle else .active
            pulse :=
              if op = 3 then
                match (s.line l).level, (s.line l).pulse with
                | .active, some r => some (if r.toNat < w.toNat then w else r)
                | _, _ => some w
              else none } s t ∧
        CarriedOut .driveLine p seq ([a, op] ++ be16 w)
          ([(if (t.line l).idleLevel = .high then 0x01 else 0) |||
            (if (t.line l).level = .active then 0x02 else 0)] ++
            be16 ((t.line l).pulse.getD 0))
          [.lines] s t

/-! ## Capture lines -/

/-- CLAIM_CAPTURE gives an unowned line, or leaves the sender's own, to the sender;
CONFIGURE_CAPTURE sets its three fields; RELEASE_CAPTURE returns them to their defaults, closes the
window and clears the suppressed count. Windows, last captures, subscribers and waiting lists
otherwise stand (R106, R107, R108). -/
def Obligations.CaptureLinesAreOwned : Prop :=
  ∀ (p : Port) (seq a sel mode : Byte) (holdoff : BitVec 16) (s : State),
    let c : CaptureId := Fin.ofNat 8 a.toNat
    let selCode : EdgeSelect → Byte := fun x =>
      match x with | .off => 0 | .rise => 1 | .fall => 2 | .both => 3
    let modeCode : ReleaseMode → Byte := fun x => match x with | .all => 0 | .oldest => 1
    (IsAttachedTake p .claimCapture seq [a] s →
      ∃ t, exec (.claimCapture p seq [a]) s = .next t ∧
        if 7 < a.toNat then RefusedWith 0x50 p seq [a] .badArgument s t
        else if (s.cap c).owner ≠ none ∧ (s.cap c).owner ≠ some p then
          RefusedWith 0x50 p seq [a] .owned s t
        else
          CaptureBecomes c { s.cap c with owner := some p } s t ∧
          CarriedOut .claimCapture p seq [a]
            ([BitVec.ofNat 8 p.val, selCode (s.cap c).edgeSelect] ++ be16 (s.cap c).holdoff ++
              [modeCode (s.cap c).mode]) [.captures] s t) ∧
    (IsAttachedTake p .releaseCapture seq [a] s →
      ∃ t, exec (.releaseCapture p seq [a]) s = .next t ∧
        if 7 < a.toNat then RefusedWith 0x51 p seq [a] .badArgument s t
        else if (s.cap c).owner ≠ some p then RefusedWith 0x51 p seq [a] .notOwner s t
        else
          CaptureBecomes c
            { s.cap c with
              owner := none, edgeSelect := .off, holdoff := 0, mode := .all, window := none,
              suppressed := 0 } s t ∧
          CarriedOut .releaseCapture p seq [a] [] [.captures] s t) ∧
    (IsAttachedTake p .configureCapture seq ([a, sel] ++ be16 holdoff ++ [mode]) s →
      ∃ t, exec (.configureCapture p seq ([a, sel] ++ be16 holdoff ++ [mode])) s = .next t ∧
        if 7 < a.toNat ∨ 3 < sel.toNat ∨ 1 < mode.toNat then
          RefusedWith 0x52 p seq ([a, sel] ++ be16 holdoff ++ [mode]) .badArgument s t
        else if (s.cap c).owner ≠ some p then
          RefusedWith 0x52 p seq ([a, sel] ++ be16 holdoff ++ [mode]) .notOwner s t
        else
          CaptureBecomes c
            { s.cap c with
              edgeSelect := if sel = 0 then .off else if sel = 1 then .rise
                else if sel = 2 then .fall else .both
              holdoff := holdoff
              mode := if mode = 0 then .all else .oldest } s t ∧
          CarriedOut .configureCapture p seq ([a, sel] ++ be16 holdoff ++ [mode])
            ([sel] ++ be16 holdoff ++ [mode] ++ be16 ((s.cap c).window.getD 0))
            [.captures] s t)

/-- SUBSCRIBE and UNSUBSCRIBE change the sender's own membership of the line's subscriber set and
tell whether it was in; READ_CAPTURE answers the line's record and changes nothing; a line above 7
is BAD_ARGUMENT (R109, R110, R170). -/
def Obligations.CaptureLinesAreFollowed : Prop :=
  ∀ (p : Port) (seq a : Byte) (s : State),
    let c : CaptureId := Fin.ofNat 8 a.toNat
    (∀ row : Command, row ∈ [.subscribe, .unsubscribe] → IsAttachedTake p row seq [a] s →
      ∃ t, exec (row.row p seq [a]) s = .next t ∧
        if 7 < a.toNat then RefusedWith row.code p seq [a] .badArgument s t
        else
          (∀ q : Port,
            peek (t.cap c).subscribers q =
              if q = p then row == .subscribe else peek (s.cap c).subscribers q) ∧
          CaptureBecomes c { s.cap c with subscribers := (t.cap c).subscribers } s t ∧
          CarriedOut row p seq [a] [if peek (s.cap c).subscribers p then 1 else 0] [.captures]
            s t) ∧
    (IsAttachedTake p .readCapture seq [a] s →
      ∃ t, exec (.readCapture p seq [a]) s = .next t ∧
        if 7 < a.toNat then RefusedWith 0x55 p seq [a] .badArgument s t
        else
          CarriedOut .readCapture p seq [a]
            ([match (s.cap c).owner with | none => (0xFF : Byte) | some q => BitVec.ofNat 8 q.val,
              match (s.cap c).edgeSelect with
              | .off => 0 | .rise => 1 | .fall => 2 | .both => 3] ++
            be16 (s.cap c).holdoff ++
            [match (s.cap c).mode with | .all => (0 : Byte) | .oldest => 1] ++
            be16 ((s.cap c).window.getD 0) ++ [(s.cap c).suppressed] ++
            (match (s.cap c).last with
              | none => [0, 0, 0, 0, 0, 0, 0]
              | some k =>
                [0x80 ||| (if k.edge = .fall then 0x01 else 0) |||
                  (if k.notRunning then 0x02 else 0)] ++ be48 k.timestamp) ++
            nat16 (s.cap c).waiting.length ++
            [(if peek (s.cap c).subscribers 0 then 0x01 else 0) |||
              (if peek (s.cap c).subscribers 1 then 0x02 else 0) |||
              (if peek (s.cap c).subscribers 2 then 0x04 else 0) |||
              (if peek (s.cap c).subscribers 3 then 0x08 else 0)])
            [] s t)

/-! ## Notes -/

/-- FETCH_NOTES of 1 to 4 takes that many records, or as many as there are, from the head of the
sender's queue and answers them, each in its 20 bytes, with the number left; SET_ATTENTION sets the
sender's attention enable and answers the one before with the number of records; other arguments are
BAD_ARGUMENT (R120, R122, R171). -/
def Obligations.NotesAreFetched : Prop :=
  ∀ (p : Port) (seq n : Byte) (s : State),
    (IsAttachedTake p .fetchNotes seq [n] s →
      ∃ t, exec (.fetchNotes p seq [n]) s = .next t ∧
        if n = 0 ∨ 4 < n.toNat then RefusedWith 0x60 p seq [n] .badArgument s t
        else
          QueueBecomes p
            { s.noteQueue p with records := (s.noteQueue p).records.drop n.toNat } s t ∧
          CarriedOut .fetchNotes p seq [n]
            ([BitVec.ofNat 8 (min n.toNat (s.noteQueue p).records.length)] ++
              ((s.noteQueue p).records.take n.toNat).flatMap Note.onWire ++
              [BitVec.ofNat 8 ((s.noteQueue p).records.length - n.toNat)])
            [.notes] s t) ∧
    (IsAttachedTake p .setAttention seq [n] s →
      ∃ t, exec (.setAttention p seq [n]) s = .next t ∧
        if 1 < n.toNat then RefusedWith 0x61 p seq [n] .badArgument s t
        else
          QueueBecomes p { s.noteQueue p with attention := n == 1 } s t ∧
          CarriedOut .setAttention p seq [n]
            [if (s.noteQueue p).attention then 1 else 0,
              BitVec.ofNat 8 (s.noteQueue p).records.length] [.notes] s t)

/-! ## Shared operations -/

/-- The table of R87, row by row, and the pin that follows the record by R82: at the idle level
while the line is IDLE, at the other level while it is ACTIVE, so that a changed level moves it and
an unchanged one does not. -/
def Obligations.LineOperationTable : Prop :=
  ∀ (l : LineId) (r : TriggerLine) (op : LineOp) (w : BitVec 16) (s : State),
    (r.pulse ≠ none → r.level = .active) →
    ((op.apply r).owner = r.owner ∧ (op.apply r).idleLevel = r.idleLevel) ∧
    (LineOp.set.apply r).level = .active ∧ (LineOp.set.apply r).pulse = none ∧
    (LineOp.clear.apply r).level = .idle ∧ (LineOp.clear.apply r).pulse = none ∧
    (LineOp.toggle.apply r).level = (if r.level = .idle then .active else .idle) ∧
    (LineOp.toggle.apply r).pulse = none ∧
    ((LineOp.pulse w).apply r).level = .active ∧
    ((LineOp.pulse w).apply r).pulse =
      some (match r.pulse with | none => w | some x => if x.toNat < w.toNat then w else x) ∧
    (s.rstN = .high →
      trgPin s l =
        (match (s.line l).level, (s.line l).idleLevel with
          | .idle, .low => .low | .idle, .high => .high
          | .active, .low => .high | .active, .high => .low) ∧
      (trgPin (s.modLine l (fun _ => op.apply r)) l = trgPin (s.modLine l (fun _ => r)) l ↔
        (op.apply r).level = r.level))

/-- The table of R117: 30 records or fewer take the note; 31 or 32 with a LOSS record at the tail
count it there, up to 65,535; 31 or 32 with an ordinary note at the tail take a LOSS record of 1. -/
def Obligations.NoteArrivalTable : Prop :=
  ∀ (n tail : Note) (l : List Note) (c : BitVec 16) (attention : Bool),
    (l.length ≤ 30 →
      NoteQueue.arrive n ⟨l, attention⟩ = ⟨l ++ [n], attention⟩) ∧
    ((l ++ [tail]).length = 31 ∨ (l ++ [tail]).length = 32 →
      (tail = .loss c →
        NoteQueue.arrive n ⟨l ++ [tail], attention⟩ =
          ⟨l ++ [.loss (if c = 65535 then 65535 else c + 1)], attention⟩) ∧
      (tail.isLoss = false →
        NoteQueue.arrive n ⟨l ++ [tail], attention⟩ = ⟨l ++ [tail, .loss 1], attention⟩))

/-- ATTNn_N is asserted, low, exactly when the queue of port n is non-empty and its attention is
enabled (R123). -/
def Obligations.AttentionPin : Prop :=
  ∀ (p : Port) (s : State),
    attnPin s p = .low ↔ (s.noteQueue p).records ≠ [] ∧ (s.noteQueue p).attention = true

/-- One firing of an ARMED entry: the note, when notify is set, to its owner with the handle before
any freeing, the due, T, the cause by R27's table, here written out (a late mark first, STEPPED at a
step, ON_TIME at an advance, and by the due at a START or an arrival; a START that finds an unmarked
entry past its due, which no run reaches, is log entry 14) and the missed grid points up to 65,535;
the line action on its line; and the disposition: a one-shot entry and one on its last count are
freed with FINAL, a periodic one rejoins unmarked at the first grid point strictly ahead of T with
the next arm sequence and one count less (R27, R29, R30, R31, R32, R33, R34). -/
def Obligations.FiringOfAnEntry : Prop :=
  ∀ (ev : FiringEvent) (i : SlotId) (e : Entry) (due : Tick) (n : BitVec 32)
    (late : Option LateMark) (s : State),
    s.entry i = some e → e.place = .armed due n late → distance s.t due ≤ 0 →
    e.period ≠ some 0 →
    let lateBy : Nat := (-(distance s.t due)).toNat
    let missed : Nat := match e.period with | none => 0 | some p => lateBy / p.toNat
    let final : Bool := e.period == none || e.count.any (fun c => c.toNat ≤ 1)
    let t := fire ev s i
    (if e.notify then
      QueueBecomes e.owner
        ((s.noteQueue e.owner).arrive
          (.fired (BitVec.ofNat 8 i.val ++ (s.slot i).gen) e.tag due s.t
            (reportedCause ev late s.t due) (BitVec.ofNat 16 (min missed 65535)) final)) s t
    else t.notes = s.notes) ∧
    (match e.action with
      | none => t.lines = s.lines
      | some a => LineBecomes a.line (a.op.apply (s.line a.line)) s t) ∧
    (if final then
      SlotBecomes i ⟨(s.slot i).gen + 1, none⟩ s t ∧
      t.queue = s.queue.filter (fun j => j != i) ∧ t.armSeq = s.armSeq ∧
      ∀ q : Port,
        t.quota q =
          if q = e.owner then { s.quota q with usage := (s.quota q).usage - 1 } else s.quota q
    else
      SlotBecomes i
        ⟨(s.slot i).gen,
          some { e with
            count := e.count.map (fun c => c - 1)
            place :=
              .armed (due + BitVec.ofNat 48 ((missed + 1) * (e.period.getD 0).toNat)) s.armSeq
                none }⟩ s t ∧
      t.queue = s.queue.filter (fun j => j != i) ++ [i] ∧ t.armSeq = s.armSeq + 1 ∧
      t.quotas = s.quotas) ∧
    KeepsAllBut [.slots, .queue, .armSeq, .quotas, .lines, .notes] s t

/-- The allocation decision: at or over its ceiling a port is refused OVER_CEILING; otherwise it is
granted while its usage is below its reserve or the shared use is below S, and refused NO_SLOT when
neither holds; and in a table whose laws hold a granted decision always finds a FREE slot, of which
it takes the one with the lowest index (R71, R72, R73). -/
def Obligations.AllocationDecision : Prop :=
  ∀ (p : Port) (s : State), AllocationFits s →
    if (s.quota p).ceiling ≤ (s.quota p).usage then allocate p s = .error .overCeiling
    else if ¬ HasRoom p s then allocate p s = .error .noSlot
    else ∃ i : SlotId, allocate p s = .ok i ∧ LowestFree i s

/-! ## Laws that every step keeps -/

/-- Every queue holds at most 32 records, at most 31 of them ordinary notes, and a queue of 32 ends
in a LOSS record, at every step (R118). -/
def Obligations.StepKeepsNotesFit : Prop :=
  ∀ (s t : State), NotesFit s → Sys2Proof.Machine.step s = .next t → NotesFit t

/-- The two laws of R85 hold at every step. -/
def Obligations.StepKeepsLinesFit : Prop :=
  ∀ (s t : State), LinesFit s → Sys2Proof.Machine.step s = .next t → LinesFit t

/-- The slot placement law holds at every step (R19, R46, R103). -/
def Obligations.StepKeepsPlaced : Prop :=
  ∀ (s t : State), Placed s → Sys2Proof.Machine.step s = .next t → Placed t

/-- The allocation table's laws hold at every step (R70, R71). -/
def Obligations.StepKeepsAllocationFits : Prop :=
  ∀ (s t : State), AllocationFits s → Sys2Proof.Machine.step s = .next t → AllocationFits t

/-- The authority record's laws hold at every step, and a port that is not ATTACHED owns nothing
(R137, R142). -/
def Obligations.StepKeepsOwnership : Prop :=
  ∀ (s t : State), Ownership s → Sys2Proof.Machine.step s = .next t → Ownership t

/-- The slew record stays within R1's bounds, a capture line without an owner keeps its default
configuration, and the last sample of a pin is its level (R1, R12, R13, R97, R98, R113). -/
def Obligations.StepKeepsSlewAndCapturesFit : Prop :=
  ∀ (s t : State), SlewFits s → CapturesFit s → Sys2Proof.Machine.step s = .next t →
    SlewFits t ∧ CapturesFit t

/-- Session, receiver and replay records stay within their rules' bounds (R127, R132, R151, R158,
R159). -/
def Obligations.StepKeepsPortsFit : Prop :=
  ∀ (s t : State), PortsFit s → Sys2Proof.Machine.step s = .next t → PortsFit t

/-- Every ARMED entry's due stays strictly within the horizon, and while the timeline is RUNNING
every ARMED entry is ahead of T, so that none is ever overdue (R22, R28). -/
def Obligations.StepKeepsDeadlinesFit : Prop :=
  ∀ (s t : State), DeadlinesFit s → Sys2Proof.Machine.step s = .next t → DeadlinesFit t

/-- The state after power-on obeys every law that the steps keep. -/
def Obligations.ResetObeysTheLaws : Prop :=
  NotesFit State.reset ∧ LinesFit State.reset ∧ Placed State.reset ∧
  AllocationFits State.reset ∧ Ownership State.reset ∧ SlewFits State.reset ∧
  CapturesFit State.reset ∧ PortsFit State.reset ∧ DeadlinesFit State.reset
end

