-- ==== Sys2Proof/Laws/Tables.lean ====
section
/-! SUPPORT. Reading a table after a change. -/

namespace Sys2Proof.Machine

variable {α β : Type} {n : Nat}

/-- A record reads as changed at its own number and as before at every other. -/
theorem peek_edit (v : Vector α n) (i j : Fin n) (f : α → α) :
    peek (edit v j f) i = if i = j then f (peek v j) else peek v i := by
  simp only [peek, edit, Vector.getElem_set, Fin.ext_iff, eq_comm]

@[simp] theorem peek_edit_same (v : Vector α n) (i : Fin n) (f : α → α) :
    peek (edit v i f) i = f (peek v i) := by simp [peek_edit]

theorem peek_edit_ne (v : Vector α n) {i j : Fin n} (f : α → α) (h : i ≠ j) :
    peek (edit v j f) i = peek v i := by simp [peek_edit, h]

/-- Every record reads as changed, each by its own number. -/
@[simp] theorem peek_each (f : Fin n → α → β) (v : Vector α n) (i : Fin n) :
    peek (each f v) i = f i (peek v i) := by
  simp [peek, each, Vector.getElem_mk]

/-- Two tables that read alike everywhere are equal. -/
theorem table_ext {v w : Vector α n} (h : ∀ i, peek v i = peek w i) : v = w := by
  apply Vector.ext
  intro i hi
  exact h ⟨i, hi⟩

/-- A table of one record repeated reads as that record. -/
@[simp] theorem peek_replicate (a : α) (i : Fin n) : peek (Vector.replicate n a) i = a := by
  simp [peek]

/-- Changing a record to itself changes nothing. -/
theorem edit_self (v : Vector α n) (i : Fin n) (f : α → α) (h : f (peek v i) = peek v i) :
    edit v i f = v := by
  apply table_ext
  intro j
  rw [peek_edit]
  split
  · next e => rw [h, e]
  · rfl

end Sys2Proof.Machine
end

