-- ==== Sys2Proof/Laws/State.lean ====
section
/-! SUPPORT. One lemma per field per update, and per reading of an untouched field: later proofs read a
field of an updated state by simp and unfold no record update. -/

namespace Sys2Proof.Machine

variable (s : State)

/-! ### modSlot -/

@[simp] theorem modSlot_rstN (j : SlotId) (f : Slot → Slot) : (s.modSlot j f).rstN = s.rstN := rfl
@[simp] theorem modSlot_resetCause (j : SlotId) (f : Slot → Slot) : (s.modSlot j f).resetCause = s.resetCause := rfl
@[simp] theorem modSlot_captureTurn (j : SlotId) (f : Slot → Slot) : (s.modSlot j f).captureTurn = s.captureTurn := rfl
@[simp] theorem modSlot_timeline (j : SlotId) (f : Slot → Slot) : (s.modSlot j f).timeline = s.timeline := rfl
@[simp] theorem modSlot_queue (j : SlotId) (f : Slot → Slot) : (s.modSlot j f).queue = s.queue := rfl
@[simp] theorem modSlot_armSeq (j : SlotId) (f : Slot → Slot) : (s.modSlot j f).armSeq = s.armSeq := rfl
@[simp] theorem modSlot_quotas (j : SlotId) (f : Slot → Slot) : (s.modSlot j f).quotas = s.quotas := rfl
@[simp] theorem modSlot_lines (j : SlotId) (f : Slot → Slot) : (s.modSlot j f).lines = s.lines := rfl
@[simp] theorem modSlot_captures (j : SlotId) (f : Slot → Slot) : (s.modSlot j f).captures = s.captures := rfl
@[simp] theorem modSlot_notes (j : SlotId) (f : Slot → Slot) : (s.modSlot j f).notes = s.notes := rfl
@[simp] theorem modSlot_ports (j : SlotId) (f : Slot → Slot) : (s.modSlot j f).ports = s.ports := rfl
@[simp] theorem modSlot_authority (j : SlotId) (f : Slot → Slot) : (s.modSlot j f).authority = s.authority := rfl
@[simp] theorem modSlot_pending (j : SlotId) (f : Slot → Slot) : (s.modSlot j f).pending = s.pending := rfl
@[simp] theorem modSlot_quota (j : SlotId) (f : Slot → Slot) (r : Port) : (s.modSlot j f).quota r = s.quota r := rfl
@[simp] theorem modSlot_line (j : SlotId) (f : Slot → Slot) (l' : LineId) : (s.modSlot j f).line l' = s.line l' := rfl
@[simp] theorem modSlot_cap (j : SlotId) (f : Slot → Slot) (c' : CaptureId) : (s.modSlot j f).cap c' = s.cap c' := rfl
@[simp] theorem modSlot_noteQueue (j : SlotId) (f : Slot → Slot) (r : Port) : (s.modSlot j f).noteQueue r = s.noteQueue r := rfl
@[simp] theorem modSlot_port (j : SlotId) (f : Slot → Slot) (r : Port) : (s.modSlot j f).port r = s.port r := rfl
@[simp] theorem modSlot_session (j : SlotId) (f : Slot → Slot) (r : Port) : (s.modSlot j f).session r = s.session r := rfl
@[simp] theorem modSlot_attached (j : SlotId) (f : Slot → Slot) (r : Port) : (s.modSlot j f).attached r = s.attached r := rfl
@[simp] theorem modSlot_running (j : SlotId) (f : Slot → Slot) : (s.modSlot j f).running = s.running := rfl
@[simp] theorem modSlot_held (j : SlotId) (f : Slot → Slot) : (s.modSlot j f).held = s.held := rfl
@[simp] theorem modSlot_holds (j : SlotId) (f : Slot → Slot) (r : Port) : (s.modSlot j f).holds r = s.holds r := rfl
@[simp] theorem modSlot_notesPending (j : SlotId) (f : Slot → Slot) (r : Port) : (s.modSlot j f).notesPending r = s.notesPending r := rfl

/-! ### modQuota -/

@[simp] theorem modQuota_rstN (p : Port) (f : Quota → Quota) : (s.modQuota p f).rstN = s.rstN := rfl
@[simp] theorem modQuota_resetCause (p : Port) (f : Quota → Quota) : (s.modQuota p f).resetCause = s.resetCause := rfl
@[simp] theorem modQuota_captureTurn (p : Port) (f : Quota → Quota) : (s.modQuota p f).captureTurn = s.captureTurn := rfl
@[simp] theorem modQuota_timeline (p : Port) (f : Quota → Quota) : (s.modQuota p f).timeline = s.timeline := rfl
@[simp] theorem modQuota_slots (p : Port) (f : Quota → Quota) : (s.modQuota p f).slots = s.slots := rfl
@[simp] theorem modQuota_queue (p : Port) (f : Quota → Quota) : (s.modQuota p f).queue = s.queue := rfl
@[simp] theorem modQuota_armSeq (p : Port) (f : Quota → Quota) : (s.modQuota p f).armSeq = s.armSeq := rfl
@[simp] theorem modQuota_lines (p : Port) (f : Quota → Quota) : (s.modQuota p f).lines = s.lines := rfl
@[simp] theorem modQuota_captures (p : Port) (f : Quota → Quota) : (s.modQuota p f).captures = s.captures := rfl
@[simp] theorem modQuota_notes (p : Port) (f : Quota → Quota) : (s.modQuota p f).notes = s.notes := rfl
@[simp] theorem modQuota_ports (p : Port) (f : Quota → Quota) : (s.modQuota p f).ports = s.ports := rfl
@[simp] theorem modQuota_authority (p : Port) (f : Quota → Quota) : (s.modQuota p f).authority = s.authority := rfl
@[simp] theorem modQuota_pending (p : Port) (f : Quota → Quota) : (s.modQuota p f).pending = s.pending := rfl
@[simp] theorem modQuota_slot (p : Port) (f : Quota → Quota) (i : SlotId) : (s.modQuota p f).slot i = s.slot i := rfl
@[simp] theorem modQuota_entry (p : Port) (f : Quota → Quota) (i : SlotId) : (s.modQuota p f).entry i = s.entry i := rfl
@[simp] theorem modQuota_line (p : Port) (f : Quota → Quota) (l' : LineId) : (s.modQuota p f).line l' = s.line l' := rfl
@[simp] theorem modQuota_cap (p : Port) (f : Quota → Quota) (c' : CaptureId) : (s.modQuota p f).cap c' = s.cap c' := rfl
@[simp] theorem modQuota_noteQueue (p : Port) (f : Quota → Quota) (r : Port) : (s.modQuota p f).noteQueue r = s.noteQueue r := rfl
@[simp] theorem modQuota_port (p : Port) (f : Quota → Quota) (r : Port) : (s.modQuota p f).port r = s.port r := rfl
@[simp] theorem modQuota_session (p : Port) (f : Quota → Quota) (r : Port) : (s.modQuota p f).session r = s.session r := rfl
@[simp] theorem modQuota_attached (p : Port) (f : Quota → Quota) (r : Port) : (s.modQuota p f).attached r = s.attached r := rfl
@[simp] theorem modQuota_running (p : Port) (f : Quota → Quota) : (s.modQuota p f).running = s.running := rfl
@[simp] theorem modQuota_held (p : Port) (f : Quota → Quota) : (s.modQuota p f).held = s.held := rfl
@[simp] theorem modQuota_holds (p : Port) (f : Quota → Quota) (r : Port) : (s.modQuota p f).holds r = s.holds r := rfl
@[simp] theorem modQuota_notesPending (p : Port) (f : Quota → Quota) (r : Port) : (s.modQuota p f).notesPending r = s.notesPending r := rfl
@[simp] theorem modQuota_due (p : Port) (f : Quota → Quota) (i : SlotId) : (s.modQuota p f).due i = s.due i := rfl
@[simp] theorem modQuota_handle (p : Port) (f : Quota → Quota) (i : SlotId) : (s.modQuota p f).handle i = s.handle i := rfl
@[simp] theorem modQuota_ownsSlot (p : Port) (f : Quota → Quota) (r : Port) (i : SlotId) : (s.modQuota p f).ownsSlot r i = s.ownsSlot r i := rfl

/-! ### modLine -/

@[simp] theorem modLine_rstN (l : LineId) (f : TriggerLine → TriggerLine) : (s.modLine l f).rstN = s.rstN := rfl
@[simp] theorem modLine_resetCause (l : LineId) (f : TriggerLine → TriggerLine) : (s.modLine l f).resetCause = s.resetCause := rfl
@[simp] theorem modLine_captureTurn (l : LineId) (f : TriggerLine → TriggerLine) : (s.modLine l f).captureTurn = s.captureTurn := rfl
@[simp] theorem modLine_timeline (l : LineId) (f : TriggerLine → TriggerLine) : (s.modLine l f).timeline = s.timeline := rfl
@[simp] theorem modLine_slots (l : LineId) (f : TriggerLine → TriggerLine) : (s.modLine l f).slots = s.slots := rfl
@[simp] theorem modLine_queue (l : LineId) (f : TriggerLine → TriggerLine) : (s.modLine l f).queue = s.queue := rfl
@[simp] theorem modLine_armSeq (l : LineId) (f : TriggerLine → TriggerLine) : (s.modLine l f).armSeq = s.armSeq := rfl
@[simp] theorem modLine_quotas (l : LineId) (f : TriggerLine → TriggerLine) : (s.modLine l f).quotas = s.quotas := rfl
@[simp] theorem modLine_captures (l : LineId) (f : TriggerLine → TriggerLine) : (s.modLine l f).captures = s.captures := rfl
@[simp] theorem modLine_notes (l : LineId) (f : TriggerLine → TriggerLine) : (s.modLine l f).notes = s.notes := rfl
@[simp] theorem modLine_ports (l : LineId) (f : TriggerLine → TriggerLine) : (s.modLine l f).ports = s.ports := rfl
@[simp] theorem modLine_authority (l : LineId) (f : TriggerLine → TriggerLine) : (s.modLine l f).authority = s.authority := rfl
@[simp] theorem modLine_pending (l : LineId) (f : TriggerLine → TriggerLine) : (s.modLine l f).pending = s.pending := rfl
@[simp] theorem modLine_slot (l : LineId) (f : TriggerLine → TriggerLine) (i : SlotId) : (s.modLine l f).slot i = s.slot i := rfl
@[simp] theorem modLine_entry (l : LineId) (f : TriggerLine → TriggerLine) (i : SlotId) : (s.modLine l f).entry i = s.entry i := rfl
@[simp] theorem modLine_quota (l : LineId) (f : TriggerLine → TriggerLine) (r : Port) : (s.modLine l f).quota r = s.quota r := rfl
@[simp] theorem modLine_cap (l : LineId) (f : TriggerLine → TriggerLine) (c' : CaptureId) : (s.modLine l f).cap c' = s.cap c' := rfl
@[simp] theorem modLine_noteQueue (l : LineId) (f : TriggerLine → TriggerLine) (r : Port) : (s.modLine l f).noteQueue r = s.noteQueue r := rfl
@[simp] theorem modLine_port (l : LineId) (f : TriggerLine → TriggerLine) (r : Port) : (s.modLine l f).port r = s.port r := rfl
@[simp] theorem modLine_session (l : LineId) (f : TriggerLine → TriggerLine) (r : Port) : (s.modLine l f).session r = s.session r := rfl
@[simp] theorem modLine_attached (l : LineId) (f : TriggerLine → TriggerLine) (r : Port) : (s.modLine l f).attached r = s.attached r := rfl
@[simp] theorem modLine_running (l : LineId) (f : TriggerLine → TriggerLine) : (s.modLine l f).running = s.running := rfl
@[simp] theorem modLine_held (l : LineId) (f : TriggerLine → TriggerLine) : (s.modLine l f).held = s.held := rfl
@[simp] theorem modLine_holds (l : LineId) (f : TriggerLine → TriggerLine) (r : Port) : (s.modLine l f).holds r = s.holds r := rfl
@[simp] theorem modLine_notesPending (l : LineId) (f : TriggerLine → TriggerLine) (r : Port) : (s.modLine l f).notesPending r = s.notesPending r := rfl
@[simp] theorem modLine_due (l : LineId) (f : TriggerLine → TriggerLine) (i : SlotId) : (s.modLine l f).due i = s.due i := rfl
@[simp] theorem modLine_handle (l : LineId) (f : TriggerLine → TriggerLine) (i : SlotId) : (s.modLine l f).handle i = s.handle i := rfl
@[simp] theorem modLine_ownsSlot (l : LineId) (f : TriggerLine → TriggerLine) (r : Port) (i : SlotId) : (s.modLine l f).ownsSlot r i = s.ownsSlot r i := rfl

/-! ### modCap -/

@[simp] theorem modCap_rstN (c : CaptureId) (f : CaptureLine → CaptureLine) : (s.modCap c f).rstN = s.rstN := rfl
@[simp] theorem modCap_resetCause (c : CaptureId) (f : CaptureLine → CaptureLine) : (s.modCap c f).resetCause = s.resetCause := rfl
@[simp] theorem modCap_captureTurn (c : CaptureId) (f : CaptureLine → CaptureLine) : (s.modCap c f).captureTurn = s.captureTurn := rfl
@[simp] theorem modCap_timeline (c : CaptureId) (f : CaptureLine → CaptureLine) : (s.modCap c f).timeline = s.timeline := rfl
@[simp] theorem modCap_slots (c : CaptureId) (f : CaptureLine → CaptureLine) : (s.modCap c f).slots = s.slots := rfl
@[simp] theorem modCap_queue (c : CaptureId) (f : CaptureLine → CaptureLine) : (s.modCap c f).queue = s.queue := rfl
@[simp] theorem modCap_armSeq (c : CaptureId) (f : CaptureLine → CaptureLine) : (s.modCap c f).armSeq = s.armSeq := rfl
@[simp] theorem modCap_quotas (c : CaptureId) (f : CaptureLine → CaptureLine) : (s.modCap c f).quotas = s.quotas := rfl
@[simp] theorem modCap_lines (c : CaptureId) (f : CaptureLine → CaptureLine) : (s.modCap c f).lines = s.lines := rfl
@[simp] theorem modCap_notes (c : CaptureId) (f : CaptureLine → CaptureLine) : (s.modCap c f).notes = s.notes := rfl
@[simp] theorem modCap_ports (c : CaptureId) (f : CaptureLine → CaptureLine) : (s.modCap c f).ports = s.ports := rfl
@[simp] theorem modCap_authority (c : CaptureId) (f : CaptureLine → CaptureLine) : (s.modCap c f).authority = s.authority := rfl
@[simp] theorem modCap_pending (c : CaptureId) (f : CaptureLine → CaptureLine) : (s.modCap c f).pending = s.pending := rfl
@[simp] theorem modCap_slot (c : CaptureId) (f : CaptureLine → CaptureLine) (i : SlotId) : (s.modCap c f).slot i = s.slot i := rfl
@[simp] theorem modCap_entry (c : CaptureId) (f : CaptureLine → CaptureLine) (i : SlotId) : (s.modCap c f).entry i = s.entry i := rfl
@[simp] theorem modCap_quota (c : CaptureId) (f : CaptureLine → CaptureLine) (r : Port) : (s.modCap c f).quota r = s.quota r := rfl
@[simp] theorem modCap_line (c : CaptureId) (f : CaptureLine → CaptureLine) (l' : LineId) : (s.modCap c f).line l' = s.line l' := rfl
@[simp] theorem modCap_noteQueue (c : CaptureId) (f : CaptureLine → CaptureLine) (r : Port) : (s.modCap c f).noteQueue r = s.noteQueue r := rfl
@[simp] theorem modCap_port (c : CaptureId) (f : CaptureLine → CaptureLine) (r : Port) : (s.modCap c f).port r = s.port r := rfl
@[simp] theorem modCap_session (c : CaptureId) (f : CaptureLine → CaptureLine) (r : Port) : (s.modCap c f).session r = s.session r := rfl
@[simp] theorem modCap_attached (c : CaptureId) (f : CaptureLine → CaptureLine) (r : Port) : (s.modCap c f).attached r = s.attached r := rfl
@[simp] theorem modCap_running (c : CaptureId) (f : CaptureLine → CaptureLine) : (s.modCap c f).running = s.running := rfl
@[simp] theorem modCap_held (c : CaptureId) (f : CaptureLine → CaptureLine) : (s.modCap c f).held = s.held := rfl
@[simp] theorem modCap_holds (c : CaptureId) (f : CaptureLine → CaptureLine) (r : Port) : (s.modCap c f).holds r = s.holds r := rfl
@[simp] theorem modCap_notesPending (c : CaptureId) (f : CaptureLine → CaptureLine) (r : Port) : (s.modCap c f).notesPending r = s.notesPending r := rfl
@[simp] theorem modCap_due (c : CaptureId) (f : CaptureLine → CaptureLine) (i : SlotId) : (s.modCap c f).due i = s.due i := rfl
@[simp] theorem modCap_handle (c : CaptureId) (f : CaptureLine → CaptureLine) (i : SlotId) : (s.modCap c f).handle i = s.handle i := rfl
@[simp] theorem modCap_ownsSlot (c : CaptureId) (f : CaptureLine → CaptureLine) (r : Port) (i : SlotId) : (s.modCap c f).ownsSlot r i = s.ownsSlot r i := rfl

/-! ### modNotes -/

@[simp] theorem modNotes_rstN (p : Port) (f : NoteQueue → NoteQueue) : (s.modNotes p f).rstN = s.rstN := rfl
@[simp] theorem modNotes_resetCause (p : Port) (f : NoteQueue → NoteQueue) : (s.modNotes p f).resetCause = s.resetCause := rfl
@[simp] theorem modNotes_captureTurn (p : Port) (f : NoteQueue → NoteQueue) : (s.modNotes p f).captureTurn = s.captureTurn := rfl
@[simp] theorem modNotes_timeline (p : Port) (f : NoteQueue → NoteQueue) : (s.modNotes p f).timeline = s.timeline := rfl
@[simp] theorem modNotes_slots (p : Port) (f : NoteQueue → NoteQueue) : (s.modNotes p f).slots = s.slots := rfl
@[simp] theorem modNotes_queue (p : Port) (f : NoteQueue → NoteQueue) : (s.modNotes p f).queue = s.queue := rfl
@[simp] theorem modNotes_armSeq (p : Port) (f : NoteQueue → NoteQueue) : (s.modNotes p f).armSeq = s.armSeq := rfl
@[simp] theorem modNotes_quotas (p : Port) (f : NoteQueue → NoteQueue) : (s.modNotes p f).quotas = s.quotas := rfl
@[simp] theorem modNotes_lines (p : Port) (f : NoteQueue → NoteQueue) : (s.modNotes p f).lines = s.lines := rfl
@[simp] theorem modNotes_captures (p : Port) (f : NoteQueue → NoteQueue) : (s.modNotes p f).captures = s.captures := rfl
@[simp] theorem modNotes_ports (p : Port) (f : NoteQueue → NoteQueue) : (s.modNotes p f).ports = s.ports := rfl
@[simp] theorem modNotes_authority (p : Port) (f : NoteQueue → NoteQueue) : (s.modNotes p f).authority = s.authority := rfl
@[simp] theorem modNotes_pending (p : Port) (f : NoteQueue → NoteQueue) : (s.modNotes p f).pending = s.pending := rfl
@[simp] theorem modNotes_slot (p : Port) (f : NoteQueue → NoteQueue) (i : SlotId) : (s.modNotes p f).slot i = s.slot i := rfl
@[simp] theorem modNotes_entry (p : Port) (f : NoteQueue → NoteQueue) (i : SlotId) : (s.modNotes p f).entry i = s.entry i := rfl
@[simp] theorem modNotes_quota (p : Port) (f : NoteQueue → NoteQueue) (r : Port) : (s.modNotes p f).quota r = s.quota r := rfl
@[simp] theorem modNotes_line (p : Port) (f : NoteQueue → NoteQueue) (l' : LineId) : (s.modNotes p f).line l' = s.line l' := rfl
@[simp] theorem modNotes_cap (p : Port) (f : NoteQueue → NoteQueue) (c' : CaptureId) : (s.modNotes p f).cap c' = s.cap c' := rfl
@[simp] theorem modNotes_port (p : Port) (f : NoteQueue → NoteQueue) (r : Port) : (s.modNotes p f).port r = s.port r := rfl
@[simp] theorem modNotes_session (p : Port) (f : NoteQueue → NoteQueue) (r : Port) : (s.modNotes p f).session r = s.session r := rfl
@[simp] theorem modNotes_attached (p : Port) (f : NoteQueue → NoteQueue) (r : Port) : (s.modNotes p f).attached r = s.attached r := rfl
@[simp] theorem modNotes_running (p : Port) (f : NoteQueue → NoteQueue) : (s.modNotes p f).running = s.running := rfl
@[simp] theorem modNotes_held (p : Port) (f : NoteQueue → NoteQueue) : (s.modNotes p f).held = s.held := rfl
@[simp] theorem modNotes_holds (p : Port) (f : NoteQueue → NoteQueue) (r : Port) : (s.modNotes p f).holds r = s.holds r := rfl
@[simp] theorem modNotes_due (p : Port) (f : NoteQueue → NoteQueue) (i : SlotId) : (s.modNotes p f).due i = s.due i := rfl
@[simp] theorem modNotes_handle (p : Port) (f : NoteQueue → NoteQueue) (i : SlotId) : (s.modNotes p f).handle i = s.handle i := rfl
@[simp] theorem modNotes_ownsSlot (p : Port) (f : NoteQueue → NoteQueue) (r : Port) (i : SlotId) : (s.modNotes p f).ownsSlot r i = s.ownsSlot r i := rfl

/-! ### modPort -/

@[simp] theorem modPort_rstN (p : Port) (f : PortEngine → PortEngine) : (s.modPort p f).rstN = s.rstN := rfl
@[simp] theorem modPort_resetCause (p : Port) (f : PortEngine → PortEngine) : (s.modPort p f).resetCause = s.resetCause := rfl
@[simp] theorem modPort_captureTurn (p : Port) (f : PortEngine → PortEngine) : (s.modPort p f).captureTurn = s.captureTurn := rfl
@[simp] theorem modPort_timeline (p : Port) (f : PortEngine → PortEngine) : (s.modPort p f).timeline = s.timeline := rfl
@[simp] theorem modPort_slots (p : Port) (f : PortEngine → PortEngine) : (s.modPort p f).slots = s.slots := rfl
@[simp] theorem modPort_queue (p : Port) (f : PortEngine → PortEngine) : (s.modPort p f).queue = s.queue := rfl
@[simp] theorem modPort_armSeq (p : Port) (f : PortEngine → PortEngine) : (s.modPort p f).armSeq = s.armSeq := rfl
@[simp] theorem modPort_quotas (p : Port) (f : PortEngine → PortEngine) : (s.modPort p f).quotas = s.quotas := rfl
@[simp] theorem modPort_lines (p : Port) (f : PortEngine → PortEngine) : (s.modPort p f).lines = s.lines := rfl
@[simp] theorem modPort_captures (p : Port) (f : PortEngine → PortEngine) : (s.modPort p f).captures = s.captures := rfl
@[simp] theorem modPort_notes (p : Port) (f : PortEngine → PortEngine) : (s.modPort p f).notes = s.notes := rfl
@[simp] theorem modPort_authority (p : Port) (f : PortEngine → PortEngine) : (s.modPort p f).authority = s.authority := rfl
@[simp] theorem modPort_pending (p : Port) (f : PortEngine → PortEngine) : (s.modPort p f).pending = s.pending := rfl
@[simp] theorem modPort_slot (p : Port) (f : PortEngine → PortEngine) (i : SlotId) : (s.modPort p f).slot i = s.slot i := rfl
@[simp] theorem modPort_entry (p : Port) (f : PortEngine → PortEngine) (i : SlotId) : (s.modPort p f).entry i = s.entry i := rfl
@[simp] theorem modPort_quota (p : Port) (f : PortEngine → PortEngine) (r : Port) : (s.modPort p f).quota r = s.quota r := rfl
@[simp] theorem modPort_line (p : Port) (f : PortEngine → PortEngine) (l' : LineId) : (s.modPort p f).line l' = s.line l' := rfl
@[simp] theorem modPort_cap (p : Port) (f : PortEngine → PortEngine) (c' : CaptureId) : (s.modPort p f).cap c' = s.cap c' := rfl
@[simp] theorem modPort_noteQueue (p : Port) (f : PortEngine → PortEngine) (r : Port) : (s.modPort p f).noteQueue r = s.noteQueue r := rfl
@[simp] theorem modPort_running (p : Port) (f : PortEngine → PortEngine) : (s.modPort p f).running = s.running := rfl
@[simp] theorem modPort_held (p : Port) (f : PortEngine → PortEngine) : (s.modPort p f).held = s.held := rfl
@[simp] theorem modPort_holds (p : Port) (f : PortEngine → PortEngine) (r : Port) : (s.modPort p f).holds r = s.holds r := rfl
@[simp] theorem modPort_notesPending (p : Port) (f : PortEngine → PortEngine) (r : Port) : (s.modPort p f).notesPending r = s.notesPending r := rfl
@[simp] theorem modPort_due (p : Port) (f : PortEngine → PortEngine) (i : SlotId) : (s.modPort p f).due i = s.due i := rfl
@[simp] theorem modPort_handle (p : Port) (f : PortEngine → PortEngine) (i : SlotId) : (s.modPort p f).handle i = s.handle i := rfl
@[simp] theorem modPort_ownsSlot (p : Port) (f : PortEngine → PortEngine) (r : Port) (i : SlotId) : (s.modPort p f).ownsSlot r i = s.ownsSlot r i := rfl

/-! ### modSession -/

@[simp] theorem modSession_rstN (p : Port) (f : Session → Session) : (s.modSession p f).rstN = s.rstN := rfl
@[simp] theorem modSession_resetCause (p : Port) (f : Session → Session) : (s.modSession p f).resetCause = s.resetCause := rfl
@[simp] theorem modSession_captureTurn (p : Port) (f : Session → Session) : (s.modSession p f).captureTurn = s.captureTurn := rfl
@[simp] theorem modSession_timeline (p : Port) (f : Session → Session) : (s.modSession p f).timeline = s.timeline := rfl
@[simp] theorem modSession_slots (p : Port) (f : Session → Session) : (s.modSession p f).slots = s.slots := rfl
@[simp] theorem modSession_queue (p : Port) (f : Session → Session) : (s.modSession p f).queue = s.queue := rfl
@[simp] theorem modSession_armSeq (p : Port) (f : Session → Session) : (s.modSession p f).armSeq = s.armSeq := rfl
@[simp] theorem modSession_quotas (p : Port) (f : Session → Session) : (s.modSession p f).quotas = s.quotas := rfl
@[simp] theorem modSession_lines (p : Port) (f : Session → Session) : (s.modSession p f).lines = s.lines := rfl
@[simp] theorem modSession_captures (p : Port) (f : Session → Session) : (s.modSession p f).captures = s.captures := rfl
@[simp] theorem modSession_notes (p : Port) (f : Session → Session) : (s.modSession p f).notes = s.notes := rfl
@[simp] theorem modSession_authority (p : Port) (f : Session → Session) : (s.modSession p f).authority = s.authority := rfl
@[simp] theorem modSession_pending (p : Port) (f : Session → Session) : (s.modSession p f).pending = s.pending := rfl
@[simp] theorem modSession_slot (p : Port) (f : Session → Session) (i : SlotId) : (s.modSession p f).slot i = s.slot i := rfl
@[simp] theorem modSession_entry (p : Port) (f : Session → Session) (i : SlotId) : (s.modSession p f).entry i = s.entry i := rfl
@[simp] theorem modSession_quota (p : Port) (f : Session → Session) (r : Port) : (s.modSession p f).quota r = s.quota r := rfl
@[simp] theorem modSession_line (p : Port) (f : Session → Session) (l' : LineId) : (s.modSession p f).line l' = s.line l' := rfl
@[simp] theorem modSession_cap (p : Port) (f : Session → Session) (c' : CaptureId) : (s.modSession p f).cap c' = s.cap c' := rfl
@[simp] theorem modSession_noteQueue (p : Port) (f : Session → Session) (r : Port) : (s.modSession p f).noteQueue r = s.noteQueue r := rfl
@[simp] theorem modSession_running (p : Port) (f : Session → Session) : (s.modSession p f).running = s.running := rfl
@[simp] theorem modSession_held (p : Port) (f : Session → Session) : (s.modSession p f).held = s.held := rfl
@[simp] theorem modSession_holds (p : Port) (f : Session → Session) (r : Port) : (s.modSession p f).holds r = s.holds r := rfl
@[simp] theorem modSession_notesPending (p : Port) (f : Session → Session) (r : Port) : (s.modSession p f).notesPending r = s.notesPending r := rfl
@[simp] theorem modSession_due (p : Port) (f : Session → Session) (i : SlotId) : (s.modSession p f).due i = s.due i := rfl
@[simp] theorem modSession_handle (p : Port) (f : Session → Session) (i : SlotId) : (s.modSession p f).handle i = s.handle i := rfl
@[simp] theorem modSession_ownsSlot (p : Port) (f : Session → Session) (r : Port) (i : SlotId) : (s.modSession p f).ownsSlot r i = s.ownsSlot r i := rfl

/-! ### setLeaseTurn -/

@[simp] theorem setLeaseTurn_rstN (p : Port) (t : Turn) : (s.setLeaseTurn p t).rstN = s.rstN := rfl
@[simp] theorem setLeaseTurn_resetCause (p : Port) (t : Turn) : (s.setLeaseTurn p t).resetCause = s.resetCause := rfl
@[simp] theorem setLeaseTurn_captureTurn (p : Port) (t : Turn) : (s.setLeaseTurn p t).captureTurn = s.captureTurn := rfl
@[simp] theorem setLeaseTurn_timeline (p : Port) (t : Turn) : (s.setLeaseTurn p t).timeline = s.timeline := rfl
@[simp] theorem setLeaseTurn_slots (p : Port) (t : Turn) : (s.setLeaseTurn p t).slots = s.slots := rfl
@[simp] theorem setLeaseTurn_queue (p : Port) (t : Turn) : (s.setLeaseTurn p t).queue = s.queue := rfl
@[simp] theorem setLeaseTurn_armSeq (p : Port) (t : Turn) : (s.setLeaseTurn p t).armSeq = s.armSeq := rfl
@[simp] theorem setLeaseTurn_quotas (p : Port) (t : Turn) : (s.setLeaseTurn p t).quotas = s.quotas := rfl
@[simp] theorem setLeaseTurn_lines (p : Port) (t : Turn) : (s.setLeaseTurn p t).lines = s.lines := rfl
@[simp] theorem setLeaseTurn_captures (p : Port) (t : Turn) : (s.setLeaseTurn p t).captures = s.captures := rfl
@[simp] theorem setLeaseTurn_notes (p : Port) (t : Turn) : (s.setLeaseTurn p t).notes = s.notes := rfl
@[simp] theorem setLeaseTurn_authority (p : Port) (t : Turn) : (s.setLeaseTurn p t).authority = s.authority := rfl
@[simp] theorem setLeaseTurn_pending (p : Port) (t : Turn) : (s.setLeaseTurn p t).pending = s.pending := rfl
@[simp] theorem setLeaseTurn_slot (p : Port) (t : Turn) (i : SlotId) : (s.setLeaseTurn p t).slot i = s.slot i := rfl
@[simp] theorem setLeaseTurn_entry (p : Port) (t : Turn) (i : SlotId) : (s.setLeaseTurn p t).entry i = s.entry i := rfl
@[simp] theorem setLeaseTurn_quota (p : Port) (t : Turn) (r : Port) : (s.setLeaseTurn p t).quota r = s.quota r := rfl
@[simp] theorem setLeaseTurn_line (p : Port) (t : Turn) (l' : LineId) : (s.setLeaseTurn p t).line l' = s.line l' := rfl
@[simp] theorem setLeaseTurn_cap (p : Port) (t : Turn) (c' : CaptureId) : (s.setLeaseTurn p t).cap c' = s.cap c' := rfl
@[simp] theorem setLeaseTurn_noteQueue (p : Port) (t : Turn) (r : Port) : (s.setLeaseTurn p t).noteQueue r = s.noteQueue r := rfl
@[simp] theorem setLeaseTurn_running (p : Port) (t : Turn) : (s.setLeaseTurn p t).running = s.running := rfl
@[simp] theorem setLeaseTurn_held (p : Port) (t : Turn) : (s.setLeaseTurn p t).held = s.held := rfl
@[simp] theorem setLeaseTurn_holds (p : Port) (t : Turn) (r : Port) : (s.setLeaseTurn p t).holds r = s.holds r := rfl
@[simp] theorem setLeaseTurn_notesPending (p : Port) (t : Turn) (r : Port) : (s.setLeaseTurn p t).notesPending r = s.notesPending r := rfl
@[simp] theorem setLeaseTurn_due (p : Port) (t : Turn) (i : SlotId) : (s.setLeaseTurn p t).due i = s.due i := rfl
@[simp] theorem setLeaseTurn_handle (p : Port) (t : Turn) (i : SlotId) : (s.setLeaseTurn p t).handle i = s.handle i := rfl
@[simp] theorem setLeaseTurn_ownsSlot (p : Port) (t : Turn) (r : Port) (i : SlotId) : (s.setLeaseTurn p t).ownsSlot r i = s.ownsSlot r i := rfl

/-! ### withTimeline -/

@[simp] theorem withTimeline_rstN (tl : Timeline) : (s.withTimeline tl).rstN = s.rstN := rfl
@[simp] theorem withTimeline_resetCause (tl : Timeline) : (s.withTimeline tl).resetCause = s.resetCause := rfl
@[simp] theorem withTimeline_captureTurn (tl : Timeline) : (s.withTimeline tl).captureTurn = s.captureTurn := rfl
@[simp] theorem withTimeline_slots (tl : Timeline) : (s.withTimeline tl).slots = s.slots := rfl
@[simp] theorem withTimeline_queue (tl : Timeline) : (s.withTimeline tl).queue = s.queue := rfl
@[simp] theorem withTimeline_armSeq (tl : Timeline) : (s.withTimeline tl).armSeq = s.armSeq := rfl
@[simp] theorem withTimeline_quotas (tl : Timeline) : (s.withTimeline tl).quotas = s.quotas := rfl
@[simp] theorem withTimeline_lines (tl : Timeline) : (s.withTimeline tl).lines = s.lines := rfl
@[simp] theorem withTimeline_captures (tl : Timeline) : (s.withTimeline tl).captures = s.captures := rfl
@[simp] theorem withTimeline_notes (tl : Timeline) : (s.withTimeline tl).notes = s.notes := rfl
@[simp] theorem withTimeline_ports (tl : Timeline) : (s.withTimeline tl).ports = s.ports := rfl
@[simp] theorem withTimeline_authority (tl : Timeline) : (s.withTimeline tl).authority = s.authority := rfl
@[simp] theorem withTimeline_pending (tl : Timeline) : (s.withTimeline tl).pending = s.pending := rfl
@[simp] theorem withTimeline_slot (tl : Timeline) (i : SlotId) : (s.withTimeline tl).slot i = s.slot i := rfl
@[simp] theorem withTimeline_entry (tl : Timeline) (i : SlotId) : (s.withTimeline tl).entry i = s.entry i := rfl
@[simp] theorem withTimeline_quota (tl : Timeline) (r : Port) : (s.withTimeline tl).quota r = s.quota r := rfl
@[simp] theorem withTimeline_line (tl : Timeline) (l' : LineId) : (s.withTimeline tl).line l' = s.line l' := rfl
@[simp] theorem withTimeline_cap (tl : Timeline) (c' : CaptureId) : (s.withTimeline tl).cap c' = s.cap c' := rfl
@[simp] theorem withTimeline_noteQueue (tl : Timeline) (r : Port) : (s.withTimeline tl).noteQueue r = s.noteQueue r := rfl
@[simp] theorem withTimeline_port (tl : Timeline) (r : Port) : (s.withTimeline tl).port r = s.port r := rfl
@[simp] theorem withTimeline_session (tl : Timeline) (r : Port) : (s.withTimeline tl).session r = s.session r := rfl
@[simp] theorem withTimeline_attached (tl : Timeline) (r : Port) : (s.withTimeline tl).attached r = s.attached r := rfl
@[simp] theorem withTimeline_held (tl : Timeline) : (s.withTimeline tl).held = s.held := rfl
@[simp] theorem withTimeline_holds (tl : Timeline) (r : Port) : (s.withTimeline tl).holds r = s.holds r := rfl
@[simp] theorem withTimeline_notesPending (tl : Timeline) (r : Port) : (s.withTimeline tl).notesPending r = s.notesPending r := rfl
@[simp] theorem withTimeline_due (tl : Timeline) (i : SlotId) : (s.withTimeline tl).due i = s.due i := rfl
@[simp] theorem withTimeline_handle (tl : Timeline) (i : SlotId) : (s.withTimeline tl).handle i = s.handle i := rfl
@[simp] theorem withTimeline_ownsSlot (tl : Timeline) (r : Port) (i : SlotId) : (s.withTimeline tl).ownsSlot r i = s.ownsSlot r i := rfl

/-! ### sendNote -/

@[simp] theorem sendNote_rstN (p : Port) (n : Note) : (sendNote p n s).rstN = s.rstN := rfl
@[simp] theorem sendNote_resetCause (p : Port) (n : Note) : (sendNote p n s).resetCause = s.resetCause := rfl
@[simp] theorem sendNote_captureTurn (p : Port) (n : Note) : (sendNote p n s).captureTurn = s.captureTurn := rfl
@[simp] theorem sendNote_timeline (p : Port) (n : Note) : (sendNote p n s).timeline = s.timeline := rfl
@[simp] theorem sendNote_slots (p : Port) (n : Note) : (sendNote p n s).slots = s.slots := rfl
@[simp] theorem sendNote_queue (p : Port) (n : Note) : (sendNote p n s).queue = s.queue := rfl
@[simp] theorem sendNote_armSeq (p : Port) (n : Note) : (sendNote p n s).armSeq = s.armSeq := rfl
@[simp] theorem sendNote_quotas (p : Port) (n : Note) : (sendNote p n s).quotas = s.quotas := rfl
@[simp] theorem sendNote_lines (p : Port) (n : Note) : (sendNote p n s).lines = s.lines := rfl
@[simp] theorem sendNote_captures (p : Port) (n : Note) : (sendNote p n s).captures = s.captures := rfl
@[simp] theorem sendNote_ports (p : Port) (n : Note) : (sendNote p n s).ports = s.ports := rfl
@[simp] theorem sendNote_authority (p : Port) (n : Note) : (sendNote p n s).authority = s.authority := rfl
@[simp] theorem sendNote_pending (p : Port) (n : Note) : (sendNote p n s).pending = s.pending := rfl
@[simp] theorem sendNote_slot (p : Port) (n : Note) (i : SlotId) : (sendNote p n s).slot i = s.slot i := rfl
@[simp] theorem sendNote_entry (p : Port) (n : Note) (i : SlotId) : (sendNote p n s).entry i = s.entry i := rfl
@[simp] theorem sendNote_quota (p : Port) (n : Note) (r : Port) : (sendNote p n s).quota r = s.quota r := rfl
@[simp] theorem sendNote_line (p : Port) (n : Note) (l' : LineId) : (sendNote p n s).line l' = s.line l' := rfl
@[simp] theorem sendNote_cap (p : Port) (n : Note) (c' : CaptureId) : (sendNote p n s).cap c' = s.cap c' := rfl
@[simp] theorem sendNote_port (p : Port) (n : Note) (r : Port) : (sendNote p n s).port r = s.port r := rfl
@[simp] theorem sendNote_session (p : Port) (n : Note) (r : Port) : (sendNote p n s).session r = s.session r := rfl
@[simp] theorem sendNote_attached (p : Port) (n : Note) (r : Port) : (sendNote p n s).attached r = s.attached r := rfl
@[simp] theorem sendNote_running (p : Port) (n : Note) : (sendNote p n s).running = s.running := rfl
@[simp] theorem sendNote_held (p : Port) (n : Note) : (sendNote p n s).held = s.held := rfl
@[simp] theorem sendNote_holds (p : Port) (n : Note) (r : Port) : (sendNote p n s).holds r = s.holds r := rfl
@[simp] theorem sendNote_due (p : Port) (n : Note) (i : SlotId) : (sendNote p n s).due i = s.due i := rfl
@[simp] theorem sendNote_handle (p : Port) (n : Note) (i : SlotId) : (sendNote p n s).handle i = s.handle i := rfl
@[simp] theorem sendNote_ownsSlot (p : Port) (n : Note) (r : Port) (i : SlotId) : (sendNote p n s).ownsSlot r i = s.ownsSlot r i := rfl

/-! ### sendNoteTo -/

@[simp] theorem sendNoteTo_rstN (g : Port → Bool) (n : Note) : (sendNoteTo g n s).rstN = s.rstN := rfl
@[simp] theorem sendNoteTo_resetCause (g : Port → Bool) (n : Note) : (sendNoteTo g n s).resetCause = s.resetCause := rfl
@[simp] theorem sendNoteTo_captureTurn (g : Port → Bool) (n : Note) : (sendNoteTo g n s).captureTurn = s.captureTurn := rfl
@[simp] theorem sendNoteTo_timeline (g : Port → Bool) (n : Note) : (sendNoteTo g n s).timeline = s.timeline := rfl
@[simp] theorem sendNoteTo_slots (g : Port → Bool) (n : Note) : (sendNoteTo g n s).slots = s.slots := rfl
@[simp] theorem sendNoteTo_queue (g : Port → Bool) (n : Note) : (sendNoteTo g n s).queue = s.queue := rfl
@[simp] theorem sendNoteTo_armSeq (g : Port → Bool) (n : Note) : (sendNoteTo g n s).armSeq = s.armSeq := rfl
@[simp] theorem sendNoteTo_quotas (g : Port → Bool) (n : Note) : (sendNoteTo g n s).quotas = s.quotas := rfl
@[simp] theorem sendNoteTo_lines (g : Port → Bool) (n : Note) : (sendNoteTo g n s).lines = s.lines := rfl
@[simp] theorem sendNoteTo_captures (g : Port → Bool) (n : Note) : (sendNoteTo g n s).captures = s.captures := rfl
@[simp] theorem sendNoteTo_ports (g : Port → Bool) (n : Note) : (sendNoteTo g n s).ports = s.ports := rfl
@[simp] theorem sendNoteTo_authority (g : Port → Bool) (n : Note) : (sendNoteTo g n s).authority = s.authority := rfl
@[simp] theorem sendNoteTo_pending (g : Port → Bool) (n : Note) : (sendNoteTo g n s).pending = s.pending := rfl
@[simp] theorem sendNoteTo_slot (g : Port → Bool) (n : Note) (i : SlotId) : (sendNoteTo g n s).slot i = s.slot i := rfl
@[simp] theorem sendNoteTo_entry (g : Port → Bool) (n : Note) (i : SlotId) : (sendNoteTo g n s).entry i = s.entry i := rfl
@[simp] theorem sendNoteTo_quota (g : Port → Bool) (n : Note) (r : Port) : (sendNoteTo g n s).quota r = s.quota r := rfl
@[simp] theorem sendNoteTo_line (g : Port → Bool) (n : Note) (l' : LineId) : (sendNoteTo g n s).line l' = s.line l' := rfl
@[simp] theorem sendNoteTo_cap (g : Port → Bool) (n : Note) (c' : CaptureId) : (sendNoteTo g n s).cap c' = s.cap c' := rfl
@[simp] theorem sendNoteTo_port (g : Port → Bool) (n : Note) (r : Port) : (sendNoteTo g n s).port r = s.port r := rfl
@[simp] theorem sendNoteTo_session (g : Port → Bool) (n : Note) (r : Port) : (sendNoteTo g n s).session r = s.session r := rfl
@[simp] theorem sendNoteTo_attached (g : Port → Bool) (n : Note) (r : Port) : (sendNoteTo g n s).attached r = s.attached r := rfl
@[simp] theorem sendNoteTo_running (g : Port → Bool) (n : Note) : (sendNoteTo g n s).running = s.running := rfl
@[simp] theorem sendNoteTo_held (g : Port → Bool) (n : Note) : (sendNoteTo g n s).held = s.held := rfl
@[simp] theorem sendNoteTo_holds (g : Port → Bool) (n : Note) (r : Port) : (sendNoteTo g n s).holds r = s.holds r := rfl
@[simp] theorem sendNoteTo_due (g : Port → Bool) (n : Note) (i : SlotId) : (sendNoteTo g n s).due i = s.due i := rfl
@[simp] theorem sendNoteTo_handle (g : Port → Bool) (n : Note) (i : SlotId) : (sendNoteTo g n s).handle i = s.handle i := rfl
@[simp] theorem sendNoteTo_ownsSlot (g : Port → Bool) (n : Note) (r : Port) (i : SlotId) : (sendNoteTo g n s).ownsSlot r i = s.ownsSlot r i := rfl

/-! ### sendTimelineNote -/

@[simp] theorem sendTimelineNote_rstN (op : TimelineOp) (a b : Tick) : (sendTimelineNote op a b s).rstN = s.rstN := rfl
@[simp] theorem sendTimelineNote_resetCause (op : TimelineOp) (a b : Tick) : (sendTimelineNote op a b s).resetCause = s.resetCause := rfl
@[simp] theorem sendTimelineNote_captureTurn (op : TimelineOp) (a b : Tick) : (sendTimelineNote op a b s).captureTurn = s.captureTurn := rfl
@[simp] theorem sendTimelineNote_timeline (op : TimelineOp) (a b : Tick) : (sendTimelineNote op a b s).timeline = s.timeline := rfl
@[simp] theorem sendTimelineNote_slots (op : TimelineOp) (a b : Tick) : (sendTimelineNote op a b s).slots = s.slots := rfl
@[simp] theorem sendTimelineNote_queue (op : TimelineOp) (a b : Tick) : (sendTimelineNote op a b s).queue = s.queue := rfl
@[simp] theorem sendTimelineNote_armSeq (op : TimelineOp) (a b : Tick) : (sendTimelineNote op a b s).armSeq = s.armSeq := rfl
@[simp] theorem sendTimelineNote_quotas (op : TimelineOp) (a b : Tick) : (sendTimelineNote op a b s).quotas = s.quotas := rfl
@[simp] theorem sendTimelineNote_lines (op : TimelineOp) (a b : Tick) : (sendTimelineNote op a b s).lines = s.lines := rfl
@[simp] theorem sendTimelineNote_captures (op : TimelineOp) (a b : Tick) : (sendTimelineNote op a b s).captures = s.captures := rfl
@[simp] theorem sendTimelineNote_ports (op : TimelineOp) (a b : Tick) : (sendTimelineNote op a b s).ports = s.ports := rfl
@[simp] theorem sendTimelineNote_authority (op : TimelineOp) (a b : Tick) : (sendTimelineNote op a b s).authority = s.authority := rfl
@[simp] theorem sendTimelineNote_pending (op : TimelineOp) (a b : Tick) : (sendTimelineNote op a b s).pending = s.pending := rfl
@[simp] theorem sendTimelineNote_slot (op : TimelineOp) (a b : Tick) (i : SlotId) : (sendTimelineNote op a b s).slot i = s.slot i := rfl
@[simp] theorem sendTimelineNote_entry (op : TimelineOp) (a b : Tick) (i : SlotId) : (sendTimelineNote op a b s).entry i = s.entry i := rfl
@[simp] theorem sendTimelineNote_quota (op : TimelineOp) (a b : Tick) (r : Port) : (sendTimelineNote op a b s).quota r = s.quota r := rfl
@[simp] theorem sendTimelineNote_line (op : TimelineOp) (a b : Tick) (l' : LineId) : (sendTimelineNote op a b s).line l' = s.line l' := rfl
@[simp] theorem sendTimelineNote_cap (op : TimelineOp) (a b : Tick) (c' : CaptureId) : (sendTimelineNote op a b s).cap c' = s.cap c' := rfl
@[simp] theorem sendTimelineNote_port (op : TimelineOp) (a b : Tick) (r : Port) : (sendTimelineNote op a b s).port r = s.port r := rfl
@[simp] theorem sendTimelineNote_session (op : TimelineOp) (a b : Tick) (r : Port) : (sendTimelineNote op a b s).session r = s.session r := rfl
@[simp] theorem sendTimelineNote_attached (op : TimelineOp) (a b : Tick) (r : Port) : (sendTimelineNote op a b s).attached r = s.attached r := rfl
@[simp] theorem sendTimelineNote_running (op : TimelineOp) (a b : Tick) : (sendTimelineNote op a b s).running = s.running := rfl
@[simp] theorem sendTimelineNote_held (op : TimelineOp) (a b : Tick) : (sendTimelineNote op a b s).held = s.held := rfl
@[simp] theorem sendTimelineNote_holds (op : TimelineOp) (a b : Tick) (r : Port) : (sendTimelineNote op a b s).holds r = s.holds r := rfl
@[simp] theorem sendTimelineNote_due (op : TimelineOp) (a b : Tick) (i : SlotId) : (sendTimelineNote op a b s).due i = s.due i := rfl
@[simp] theorem sendTimelineNote_handle (op : TimelineOp) (a b : Tick) (i : SlotId) : (sendTimelineNote op a b s).handle i = s.handle i := rfl
@[simp] theorem sendTimelineNote_ownsSlot (op : TimelineOp) (a b : Tick) (r : Port) (i : SlotId) : (sendTimelineNote op a b s).ownsSlot r i = s.ownsSlot r i := rfl

/-! ### leaveQueue -/

@[simp] theorem leaveQueue_rstN (j : SlotId) : (leaveQueue j s).rstN = s.rstN := rfl
@[simp] theorem leaveQueue_resetCause (j : SlotId) : (leaveQueue j s).resetCause = s.resetCause := rfl
@[simp] theorem leaveQueue_captureTurn (j : SlotId) : (leaveQueue j s).captureTurn = s.captureTurn := rfl
@[simp] theorem leaveQueue_timeline (j : SlotId) : (leaveQueue j s).timeline = s.timeline := rfl
@[simp] theorem leaveQueue_slots (j : SlotId) : (leaveQueue j s).slots = s.slots := rfl
@[simp] theorem leaveQueue_armSeq (j : SlotId) : (leaveQueue j s).armSeq = s.armSeq := rfl
@[simp] theorem leaveQueue_quotas (j : SlotId) : (leaveQueue j s).quotas = s.quotas := rfl
@[simp] theorem leaveQueue_lines (j : SlotId) : (leaveQueue j s).lines = s.lines := rfl
@[simp] theorem leaveQueue_captures (j : SlotId) : (leaveQueue j s).captures = s.captures := rfl
@[simp] theorem leaveQueue_notes (j : SlotId) : (leaveQueue j s).notes = s.notes := rfl
@[simp] theorem leaveQueue_ports (j : SlotId) : (leaveQueue j s).ports = s.ports := rfl
@[simp] theorem leaveQueue_authority (j : SlotId) : (leaveQueue j s).authority = s.authority := rfl
@[simp] theorem leaveQueue_pending (j : SlotId) : (leaveQueue j s).pending = s.pending := rfl
@[simp] theorem leaveQueue_slot (j : SlotId) (i : SlotId) : (leaveQueue j s).slot i = s.slot i := rfl
@[simp] theorem leaveQueue_entry (j : SlotId) (i : SlotId) : (leaveQueue j s).entry i = s.entry i := rfl
@[simp] theorem leaveQueue_quota (j : SlotId) (r : Port) : (leaveQueue j s).quota r = s.quota r := rfl
@[simp] theorem leaveQueue_line (j : SlotId) (l' : LineId) : (leaveQueue j s).line l' = s.line l' := rfl
@[simp] theorem leaveQueue_cap (j : SlotId) (c' : CaptureId) : (leaveQueue j s).cap c' = s.cap c' := rfl
@[simp] theorem leaveQueue_noteQueue (j : SlotId) (r : Port) : (leaveQueue j s).noteQueue r = s.noteQueue r := rfl
@[simp] theorem leaveQueue_port (j : SlotId) (r : Port) : (leaveQueue j s).port r = s.port r := rfl
@[simp] theorem leaveQueue_session (j : SlotId) (r : Port) : (leaveQueue j s).session r = s.session r := rfl
@[simp] theorem leaveQueue_attached (j : SlotId) (r : Port) : (leaveQueue j s).attached r = s.attached r := rfl
@[simp] theorem leaveQueue_running (j : SlotId) : (leaveQueue j s).running = s.running := rfl
@[simp] theorem leaveQueue_held (j : SlotId) : (leaveQueue j s).held = s.held := rfl
@[simp] theorem leaveQueue_holds (j : SlotId) (r : Port) : (leaveQueue j s).holds r = s.holds r := rfl
@[simp] theorem leaveQueue_notesPending (j : SlotId) (r : Port) : (leaveQueue j s).notesPending r = s.notesPending r := rfl
@[simp] theorem leaveQueue_due (j : SlotId) (i : SlotId) : (leaveQueue j s).due i = s.due i := rfl
@[simp] theorem leaveQueue_handle (j : SlotId) (i : SlotId) : (leaveQueue j s).handle i = s.handle i := rfl
@[simp] theorem leaveQueue_ownsSlot (j : SlotId) (r : Port) (i : SlotId) : (leaveQueue j s).ownsSlot r i = s.ownsSlot r i := rfl

/-! ### joinQueue -/

@[simp] theorem joinQueue_rstN (j : SlotId) (e : Entry) (d : Tick) (m : Option LateMark) : (joinQueue j e d m s).rstN = s.rstN := rfl
@[simp] theorem joinQueue_resetCause (j : SlotId) (e : Entry) (d : Tick) (m : Option LateMark) : (joinQueue j e d m s).resetCause = s.resetCause := rfl
@[simp] theorem joinQueue_captureTurn (j : SlotId) (e : Entry) (d : Tick) (m : Option LateMark) : (joinQueue j e d m s).captureTurn = s.captureTurn := rfl
@[simp] theorem joinQueue_timeline (j : SlotId) (e : Entry) (d : Tick) (m : Option LateMark) : (joinQueue j e d m s).timeline = s.timeline := rfl
@[simp] theorem joinQueue_quotas (j : SlotId) (e : Entry) (d : Tick) (m : Option LateMark) : (joinQueue j e d m s).quotas = s.quotas := rfl
@[simp] theorem joinQueue_lines (j : SlotId) (e : Entry) (d : Tick) (m : Option LateMark) : (joinQueue j e d m s).lines = s.lines := rfl
@[simp] theorem joinQueue_captures (j : SlotId) (e : Entry) (d : Tick) (m : Option LateMark) : (joinQueue j e d m s).captures = s.captures := rfl
@[simp] theorem joinQueue_notes (j : SlotId) (e : Entry) (d : Tick) (m : Option LateMark) : (joinQueue j e d m s).notes = s.notes := rfl
@[simp] theorem joinQueue_ports (j : SlotId) (e : Entry) (d : Tick) (m : Option LateMark) : (joinQueue j e d m s).ports = s.ports := rfl
@[simp] theorem joinQueue_authority (j : SlotId) (e : Entry) (d : Tick) (m : Option LateMark) : (joinQueue j e d m s).authority = s.authority := rfl
@[simp] theorem joinQueue_pending (j : SlotId) (e : Entry) (d : Tick) (m : Option LateMark) : (joinQueue j e d m s).pending = s.pending := rfl
@[simp] theorem joinQueue_quota (j : SlotId) (e : Entry) (d : Tick) (m : Option LateMark) (r : Port) : (joinQueue j e d m s).quota r = s.quota r := rfl
@[simp] theorem joinQueue_line (j : SlotId) (e : Entry) (d : Tick) (m : Option LateMark) (l' : LineId) : (joinQueue j e d m s).line l' = s.line l' := rfl
@[simp] theorem joinQueue_cap (j : SlotId) (e : Entry) (d : Tick) (m : Option LateMark) (c' : CaptureId) : (joinQueue j e d m s).cap c' = s.cap c' := rfl
@[simp] theorem joinQueue_noteQueue (j : SlotId) (e : Entry) (d : Tick) (m : Option LateMark) (r : Port) : (joinQueue j e d m s).noteQueue r = s.noteQueue r := rfl
@[simp] theorem joinQueue_port (j : SlotId) (e : Entry) (d : Tick) (m : Option LateMark) (r : Port) : (joinQueue j e d m s).port r = s.port r := rfl
@[simp] theorem joinQueue_session (j : SlotId) (e : Entry) (d : Tick) (m : Option LateMark) (r : Port) : (joinQueue j e d m s).session r = s.session r := rfl
@[simp] theorem joinQueue_attached (j : SlotId) (e : Entry) (d : Tick) (m : Option LateMark) (r : Port) : (joinQueue j e d m s).attached r = s.attached r := rfl
@[simp] theorem joinQueue_running (j : SlotId) (e : Entry) (d : Tick) (m : Option LateMark) : (joinQueue j e d m s).running = s.running := rfl
@[simp] theorem joinQueue_held (j : SlotId) (e : Entry) (d : Tick) (m : Option LateMark) : (joinQueue j e d m s).held = s.held := rfl
@[simp] theorem joinQueue_holds (j : SlotId) (e : Entry) (d : Tick) (m : Option LateMark) (r : Port) : (joinQueue j e d m s).holds r = s.holds r := rfl
@[simp] theorem joinQueue_notesPending (j : SlotId) (e : Entry) (d : Tick) (m : Option LateMark) (r : Port) : (joinQueue j e d m s).notesPending r = s.notesPending r := rfl

/-! ### raiseUsage -/

@[simp] theorem raiseUsage_rstN (p : Port) : (raiseUsage p s).rstN = s.rstN := rfl
@[simp] theorem raiseUsage_resetCause (p : Port) : (raiseUsage p s).resetCause = s.resetCause := rfl
@[simp] theorem raiseUsage_captureTurn (p : Port) : (raiseUsage p s).captureTurn = s.captureTurn := rfl
@[simp] theorem raiseUsage_timeline (p : Port) : (raiseUsage p s).timeline = s.timeline := rfl
@[simp] theorem raiseUsage_slots (p : Port) : (raiseUsage p s).slots = s.slots := rfl
@[simp] theorem raiseUsage_queue (p : Port) : (raiseUsage p s).queue = s.queue := rfl
@[simp] theorem raiseUsage_armSeq (p : Port) : (raiseUsage p s).armSeq = s.armSeq := rfl
@[simp] theorem raiseUsage_lines (p : Port) : (raiseUsage p s).lines = s.lines := rfl
@[simp] theorem raiseUsage_captures (p : Port) : (raiseUsage p s).captures = s.captures := rfl
@[simp] theorem raiseUsage_notes (p : Port) : (raiseUsage p s).notes = s.notes := rfl
@[simp] theorem raiseUsage_ports (p : Port) : (raiseUsage p s).ports = s.ports := rfl
@[simp] theorem raiseUsage_authority (p : Port) : (raiseUsage p s).authority = s.authority := rfl
@[simp] theorem raiseUsage_pending (p : Port) : (raiseUsage p s).pending = s.pending := rfl
@[simp] theorem raiseUsage_slot (p : Port) (i : SlotId) : (raiseUsage p s).slot i = s.slot i := rfl
@[simp] theorem raiseUsage_entry (p : Port) (i : SlotId) : (raiseUsage p s).entry i = s.entry i := rfl
@[simp] theorem raiseUsage_line (p : Port) (l' : LineId) : (raiseUsage p s).line l' = s.line l' := rfl
@[simp] theorem raiseUsage_cap (p : Port) (c' : CaptureId) : (raiseUsage p s).cap c' = s.cap c' := rfl
@[simp] theorem raiseUsage_noteQueue (p : Port) (r : Port) : (raiseUsage p s).noteQueue r = s.noteQueue r := rfl
@[simp] theorem raiseUsage_port (p : Port) (r : Port) : (raiseUsage p s).port r = s.port r := rfl
@[simp] theorem raiseUsage_session (p : Port) (r : Port) : (raiseUsage p s).session r = s.session r := rfl
@[simp] theorem raiseUsage_attached (p : Port) (r : Port) : (raiseUsage p s).attached r = s.attached r := rfl
@[simp] theorem raiseUsage_running (p : Port) : (raiseUsage p s).running = s.running := rfl
@[simp] theorem raiseUsage_held (p : Port) : (raiseUsage p s).held = s.held := rfl
@[simp] theorem raiseUsage_holds (p : Port) (r : Port) : (raiseUsage p s).holds r = s.holds r := rfl
@[simp] theorem raiseUsage_notesPending (p : Port) (r : Port) : (raiseUsage p s).notesPending r = s.notesPending r := rfl
@[simp] theorem raiseUsage_due (p : Port) (i : SlotId) : (raiseUsage p s).due i = s.due i := rfl
@[simp] theorem raiseUsage_handle (p : Port) (i : SlotId) : (raiseUsage p s).handle i = s.handle i := rfl
@[simp] theorem raiseUsage_ownsSlot (p : Port) (r : Port) (i : SlotId) : (raiseUsage p s).ownsSlot r i = s.ownsSlot r i := rfl

/-! ### startAnswer -/

@[simp] theorem startAnswer_rstN (p : Port) (a : Response) : (startAnswer p a s).rstN = s.rstN := rfl
@[simp] theorem startAnswer_resetCause (p : Port) (a : Response) : (startAnswer p a s).resetCause = s.resetCause := rfl
@[simp] theorem startAnswer_captureTurn (p : Port) (a : Response) : (startAnswer p a s).captureTurn = s.captureTurn := rfl
@[simp] theorem startAnswer_timeline (p : Port) (a : Response) : (startAnswer p a s).timeline = s.timeline := rfl
@[simp] theorem startAnswer_slots (p : Port) (a : Response) : (startAnswer p a s).slots = s.slots := rfl
@[simp] theorem startAnswer_queue (p : Port) (a : Response) : (startAnswer p a s).queue = s.queue := rfl
@[simp] theorem startAnswer_armSeq (p : Port) (a : Response) : (startAnswer p a s).armSeq = s.armSeq := rfl
@[simp] theorem startAnswer_quotas (p : Port) (a : Response) : (startAnswer p a s).quotas = s.quotas := rfl
@[simp] theorem startAnswer_lines (p : Port) (a : Response) : (startAnswer p a s).lines = s.lines := rfl
@[simp] theorem startAnswer_captures (p : Port) (a : Response) : (startAnswer p a s).captures = s.captures := rfl
@[simp] theorem startAnswer_notes (p : Port) (a : Response) : (startAnswer p a s).notes = s.notes := rfl
@[simp] theorem startAnswer_authority (p : Port) (a : Response) : (startAnswer p a s).authority = s.authority := rfl
@[simp] theorem startAnswer_pending (p : Port) (a : Response) : (startAnswer p a s).pending = s.pending := rfl
@[simp] theorem startAnswer_slot (p : Port) (a : Response) (i : SlotId) : (startAnswer p a s).slot i = s.slot i := rfl
@[simp] theorem startAnswer_entry (p : Port) (a : Response) (i : SlotId) : (startAnswer p a s).entry i = s.entry i := rfl
@[simp] theorem startAnswer_quota (p : Port) (a : Response) (r : Port) : (startAnswer p a s).quota r = s.quota r := rfl
@[simp] theorem startAnswer_line (p : Port) (a : Response) (l' : LineId) : (startAnswer p a s).line l' = s.line l' := rfl
@[simp] theorem startAnswer_cap (p : Port) (a : Response) (c' : CaptureId) : (startAnswer p a s).cap c' = s.cap c' := rfl
@[simp] theorem startAnswer_noteQueue (p : Port) (a : Response) (r : Port) : (startAnswer p a s).noteQueue r = s.noteQueue r := rfl
@[simp] theorem startAnswer_running (p : Port) (a : Response) : (startAnswer p a s).running = s.running := rfl
@[simp] theorem startAnswer_held (p : Port) (a : Response) : (startAnswer p a s).held = s.held := rfl
@[simp] theorem startAnswer_holds (p : Port) (a : Response) (r : Port) : (startAnswer p a s).holds r = s.holds r := rfl
@[simp] theorem startAnswer_notesPending (p : Port) (a : Response) (r : Port) : (startAnswer p a s).notesPending r = s.notesPending r := rfl
@[simp] theorem startAnswer_due (p : Port) (a : Response) (i : SlotId) : (startAnswer p a s).due i = s.due i := rfl
@[simp] theorem startAnswer_handle (p : Port) (a : Response) (i : SlotId) : (startAnswer p a s).handle i = s.handle i := rfl
@[simp] theorem startAnswer_ownsSlot (p : Port) (a : Response) (r : Port) (i : SlotId) : (startAnswer p a s).ownsSlot r i = s.ownsSlot r i := rfl

/-! ### leaveWaitList -/

@[simp] theorem leaveWaitList_rstN (p : Port) : (leaveWaitList p s).rstN = s.rstN := rfl
@[simp] theorem leaveWaitList_resetCause (p : Port) : (leaveWaitList p s).resetCause = s.resetCause := rfl
@[simp] theorem leaveWaitList_captureTurn (p : Port) : (leaveWaitList p s).captureTurn = s.captureTurn := rfl
@[simp] theorem leaveWaitList_timeline (p : Port) : (leaveWaitList p s).timeline = s.timeline := rfl
@[simp] theorem leaveWaitList_slots (p : Port) : (leaveWaitList p s).slots = s.slots := rfl
@[simp] theorem leaveWaitList_queue (p : Port) : (leaveWaitList p s).queue = s.queue := rfl
@[simp] theorem leaveWaitList_armSeq (p : Port) : (leaveWaitList p s).armSeq = s.armSeq := rfl
@[simp] theorem leaveWaitList_quotas (p : Port) : (leaveWaitList p s).quotas = s.quotas := rfl
@[simp] theorem leaveWaitList_lines (p : Port) : (leaveWaitList p s).lines = s.lines := rfl
@[simp] theorem leaveWaitList_captures (p : Port) : (leaveWaitList p s).captures = s.captures := rfl
@[simp] theorem leaveWaitList_notes (p : Port) : (leaveWaitList p s).notes = s.notes := rfl
@[simp] theorem leaveWaitList_ports (p : Port) : (leaveWaitList p s).ports = s.ports := rfl
@[simp] theorem leaveWaitList_pending (p : Port) : (leaveWaitList p s).pending = s.pending := rfl
@[simp] theorem leaveWaitList_slot (p : Port) (i : SlotId) : (leaveWaitList p s).slot i = s.slot i := rfl
@[simp] theorem leaveWaitList_entry (p : Port) (i : SlotId) : (leaveWaitList p s).entry i = s.entry i := rfl
@[simp] theorem leaveWaitList_quota (p : Port) (r : Port) : (leaveWaitList p s).quota r = s.quota r := rfl
@[simp] theorem leaveWaitList_line (p : Port) (l' : LineId) : (leaveWaitList p s).line l' = s.line l' := rfl
@[simp] theorem leaveWaitList_cap (p : Port) (c' : CaptureId) : (leaveWaitList p s).cap c' = s.cap c' := rfl
@[simp] theorem leaveWaitList_noteQueue (p : Port) (r : Port) : (leaveWaitList p s).noteQueue r = s.noteQueue r := rfl
@[simp] theorem leaveWaitList_port (p : Port) (r : Port) : (leaveWaitList p s).port r = s.port r := rfl
@[simp] theorem leaveWaitList_session (p : Port) (r : Port) : (leaveWaitList p s).session r = s.session r := rfl
@[simp] theorem leaveWaitList_attached (p : Port) (r : Port) : (leaveWaitList p s).attached r = s.attached r := rfl
@[simp] theorem leaveWaitList_running (p : Port) : (leaveWaitList p s).running = s.running := rfl
@[simp] theorem leaveWaitList_held (p : Port) : (leaveWaitList p s).held = s.held := rfl
@[simp] theorem leaveWaitList_notesPending (p : Port) (r : Port) : (leaveWaitList p s).notesPending r = s.notesPending r := rfl
@[simp] theorem leaveWaitList_due (p : Port) (i : SlotId) : (leaveWaitList p s).due i = s.due i := rfl
@[simp] theorem leaveWaitList_handle (p : Port) (i : SlotId) : (leaveWaitList p s).handle i = s.handle i := rfl
@[simp] theorem leaveWaitList_ownsSlot (p : Port) (r : Port) (i : SlotId) : (leaveWaitList p s).ownsSlot r i = s.ownsSlot r i := rfl

/-! ### What an update writes -/

@[simp] theorem slot_modSlot (i j : SlotId) (f : Slot → Slot) :
    (s.modSlot j f).slot i = if i = j then f (s.slot j) else s.slot i := peek_edit ..
@[simp] theorem entry_modSlot (i j : SlotId) (f : Slot → Slot) :
    (s.modSlot j f).entry i = if i = j then (f (s.slot j)).entry else s.entry i := by
  simp only [State.entry, slot_modSlot]; split <;> rfl
@[simp] theorem quota_modQuota (p q : Port) (f : Quota → Quota) :
    (s.modQuota p f).quota q = if q = p then f (s.quota p) else s.quota q := peek_edit ..
@[simp] theorem line_modLine (l m : LineId) (f : TriggerLine → TriggerLine) :
    (s.modLine l f).line m = if m = l then f (s.line l) else s.line m := peek_edit ..
@[simp] theorem cap_modCap (c d : CaptureId) (f : CaptureLine → CaptureLine) :
    (s.modCap c f).cap d = if d = c then f (s.cap c) else s.cap d := peek_edit ..
@[simp] theorem noteQueue_modNotes (p q : Port) (f : NoteQueue → NoteQueue) :
    (s.modNotes p f).noteQueue q = if q = p then f (s.noteQueue p) else s.noteQueue q := peek_edit ..
@[simp] theorem port_modPort (p q : Port) (f : PortEngine → PortEngine) :
    (s.modPort p f).port q = if q = p then f (s.port p) else s.port q := peek_edit ..
@[simp] theorem session_modPort (p q : Port) (f : PortEngine → PortEngine) :
    (s.modPort p f).session q = if q = p then (f (s.port p)).session else s.session q := by
  simp only [State.session, port_modPort]; split <;> rfl
@[simp] theorem port_modSession (p q : Port) (f : Session → Session) :
    (s.modSession p f).port q
      = if q = p then { s.port p with session := f (s.session p) } else s.port q := peek_edit ..
@[simp] theorem session_modSession (p q : Port) (f : Session → Session) :
    (s.modSession p f).session q = if q = p then f (s.session p) else s.session q := by
  simp only [State.session, port_modSession]; split <;> rfl
@[simp] theorem port_setLeaseTurn (p q : Port) (t : Turn) :
    (s.setLeaseTurn p t).port q = if q = p then { s.port p with turn := t } else s.port q :=
  peek_edit ..
@[simp] theorem session_setLeaseTurn (p q : Port) (t : Turn) :
    (s.setLeaseTurn p t).session q = s.session q := by
  simp only [State.session, port_setLeaseTurn]; split <;> simp_all
@[simp] theorem attached_setLeaseTurn (p q : Port) (t : Turn) :
    (s.setLeaseTurn p t).attached q = s.attached q := by simp [State.attached]
@[simp] theorem port_startAnswer (p q : Port) (a : Response) :
    (startAnswer p a s).port q
      = if q = p then { s.port p with receiver := .answering a 0 } else s.port q := peek_edit ..
@[simp] theorem session_startAnswer (p q : Port) (a : Response) :
    (startAnswer p a s).session q = s.session q := by
  simp only [State.session, port_startAnswer]; split <;> simp_all
@[simp] theorem timeline_withTimeline (tl : Timeline) : (s.withTimeline tl).timeline = tl := rfl
@[simp] theorem noteQueue_sendNote (p q : Port) (n : Note) :
    (sendNote p n s).noteQueue q
      = if q = p then (s.noteQueue p).arrive n else s.noteQueue q := peek_edit ..
@[simp] theorem noteQueue_sendNoteTo (g : Port → Bool) (n : Note) (q : Port) :
    (sendNoteTo g n s).noteQueue q
      = if g q then (s.noteQueue q).arrive n else s.noteQueue q := peek_each ..
@[simp] theorem noteQueue_sendTimelineNote (op : TimelineOp) (a b : Tick) (q : Port) :
    (sendTimelineNote op a b s).noteQueue q
      = if s.attached q then (s.noteQueue q).arrive (.timeline op a b) else s.noteQueue q :=
  peek_each ..
@[simp] theorem queue_leaveQueue (j : SlotId) :
    (leaveQueue j s).queue = s.queue.filter (fun k => k != j) := rfl
@[simp] theorem queue_joinQueue (j : SlotId) (e : Entry) (d : Tick) (m : Option LateMark) :
    (joinQueue j e d m s).queue = s.queue.filter (fun k => k != j) ++ [j] := rfl
@[simp] theorem armSeq_joinQueue (j : SlotId) (e : Entry) (d : Tick) (m : Option LateMark) :
    (joinQueue j e d m s).armSeq = s.armSeq + 1 := rfl
@[simp] theorem slot_joinQueue (i j : SlotId) (e : Entry) (d : Tick) (m : Option LateMark) :
    (joinQueue j e d m s).slot i
      = if i = j then { s.slot j with entry := some { e with place := .armed d s.armSeq m } }
        else s.slot i := peek_edit ..
@[simp] theorem entry_joinQueue (i j : SlotId) (e : Entry) (d : Tick) (m : Option LateMark) :
    (joinQueue j e d m s).entry i
      = if i = j then some { e with place := .armed d s.armSeq m } else s.entry i := by
  simp only [State.entry, slot_joinQueue]; split <;> rfl
@[simp] theorem quota_raiseUsage (p q : Port) :
    (raiseUsage p s).quota q
      = if q = p then { s.quota p with usage := (s.quota p).usage + 1 } else s.quota q := peek_edit ..
@[simp] theorem authority_leaveWaitList (p : Port) :
    (leaveWaitList p s).authority
      = { s.authority with waitList := s.authority.waitList.filter (fun q => q != p) } := rfl

end Sys2Proof.Machine
end

