-- ==== Sys2Proof/Laws/Ops.lean ====
section
/-! SUPPORT. What each shared operation can do, said once: what it leaves alone, and its cases. -/

namespace Sys2Proof.Machine

/-! ## Notes arriving (R117) -/

theorem arriveRecords_room (n : Note) (l : List Note) (h : l.length ≤ 30) :
    arriveRecords n l = l ++ [n] := by
  have h' : l.length < Config.ordinaryNotes := by simp only [Config.ordinaryNotes]; omega
  rw [arriveRecords, if_pos h']

theorem arriveRecords_counted (n : Note) (l : List Note) (c : BitVec 16) (h : 31 ≤ l.length + 1) :
    arriveRecords n (l ++ [.loss c]) = l ++ [.loss (saturate c)] := by
  have h' : ¬ (l ++ [Note.loss c]).length < Config.ordinaryNotes := by
    simp only [Config.ordinaryNotes, List.length_append, List.length_singleton]; omega
  rw [arriveRecords, if_neg h']
  simp

theorem arriveRecords_full (n m : Note) (l : List Note) (h : 31 ≤ l.length + 1)
    (hm : ∀ c, m ≠ .loss c) : arriveRecords n (l ++ [m]) = l ++ [m] ++ [.loss 1] := by
  have h' : ¬ (l ++ [m]).length < Config.ordinaryNotes := by
    simp only [Config.ordinaryNotes, List.length_append, List.length_singleton]; omega
  rw [arriveRecords, if_neg h']
  cases m <;> simp_all

/-! ## What firing leaves alone -/

/-- What no firing changes: the timeline, the capture lines and their unit's place, the port
engines, the authority, the resets and the waiting commands. -/
structure FiringFrame (s t : State) : Prop where
  rstN : t.rstN = s.rstN
  resetCause : t.resetCause = s.resetCause
  timeline : t.timeline = s.timeline
  captures : t.captures = s.captures
  ports : t.ports = s.ports
  authority : t.authority = s.authority
  captureTurn : t.captureTurn = s.captureTurn
  pending : t.pending = s.pending

theorem FiringFrame.rfl (s : State) : FiringFrame s s :=
  ⟨.refl _, .refl _, .refl _, .refl _, .refl _, .refl _, .refl _, .refl _⟩

theorem FiringFrame.trans {s t u : State} (h : FiringFrame s t) (k : FiringFrame t u) :
    FiringFrame s u :=
  ⟨k.rstN.trans h.rstN, k.resetCause.trans h.resetCause, k.timeline.trans h.timeline,
    k.captures.trans h.captures, k.ports.trans h.ports, k.authority.trans h.authority,
    k.captureTurn.trans h.captureTurn, k.pending.trans h.pending⟩

/-- What leaving a place leaves alone. -/
theorem leavePlace_frame (i : SlotId) (pl : Place) (s : State) :
    (leavePlace i pl s).rstN = s.rstN ∧ (leavePlace i pl s).resetCause = s.resetCause ∧
    (leavePlace i pl s).timeline = s.timeline ∧ (leavePlace i pl s).slots = s.slots ∧
    (leavePlace i pl s).armSeq = s.armSeq ∧ (leavePlace i pl s).quotas = s.quotas ∧
    (leavePlace i pl s).lines = s.lines ∧ (leavePlace i pl s).notes = s.notes ∧
    (leavePlace i pl s).ports = s.ports ∧ (leavePlace i pl s).authority = s.authority ∧
    (leavePlace i pl s).captureTurn = s.captureTurn ∧
    (leavePlace i pl s).pending = s.pending := by
  cases pl <;> simp [leavePlace]

/-- A freeing changes the slot, its place, and its owner's usage alone (R47). -/
theorem freeSlot_frame (i : SlotId) (s : State) :
    (freeSlot i s).rstN = s.rstN ∧ (freeSlot i s).resetCause = s.resetCause ∧
    (freeSlot i s).timeline = s.timeline ∧ (freeSlot i s).armSeq = s.armSeq ∧
    (freeSlot i s).lines = s.lines ∧ (freeSlot i s).notes = s.notes ∧
    (freeSlot i s).ports = s.ports ∧ (freeSlot i s).authority = s.authority ∧
    (freeSlot i s).captureTurn = s.captureTurn ∧
    (freeSlot i s).pending = s.pending := by
  unfold freeSlot
  split
  · simp
  · next e _ => simp [leavePlace_frame i e.place s]

/-- After a freeing the slot is FREE with the next generation, and every other slot is as before
(R47). -/
theorem slot_freeSlot (i j : SlotId) (s : State) :
    (freeSlot i s).slot j
      = if j = i ∧ (s.entry i).isSome then (s.slot i).freed else s.slot j := by
  unfold freeSlot
  split
  · next h => simp [h]
  · next e h =>
    have hs : (leavePlace i e.place s).slot = s.slot := by
      funext k; simp [State.slot, leavePlace_frame i e.place s]
    simp [h, hs]

/-- An ARMED entry that is freed leaves the capture lines alone. -/
theorem freeSlot_armed_captures (i : SlotId) (s : State) (e : Entry) (d : Tick) (q : BitVec 32)
    (m : Option LateMark) (he : s.entry i = some e) (hp : e.place = .armed d q m) :
    (freeSlot i s).captures = s.captures := by
  simp [freeSlot, he, hp, leavePlace]

theorem firingNote_eq (i : SlotId) (ev : FiringEvent) (e : Entry) (d : Tick) (m : Option LateMark)
    (s : State) :
    (firingNote i ev e d m s) = { s with notes := (firingNote i ev e d m s).notes } := by
  unfold firingNote; split <;> rfl

theorem firingAction_eq (e : Entry) (s : State) :
    firingAction e s = { s with lines := (firingAction e s).lines } := by
  unfold firingAction; split <;> rfl

@[simp] theorem firingNote_entry (i j : SlotId) (ev : FiringEvent) (e : Entry) (d : Tick)
    (m : Option LateMark) (s : State) : (firingNote i ev e d m s).entry j = s.entry j := by
  rw [firingNote_eq]; rfl

@[simp] theorem firingAction_entry (j : SlotId) (e : Entry) (s : State) :
    (firingAction e s).entry j = s.entry j := by
  rw [firingAction_eq]; rfl

/-- One firing leaves alone what no firing changes (R29). -/
theorem fire_frame (ev : FiringEvent) (s : State) (i : SlotId) : FiringFrame s (fire ev s i) := by
  unfold fire
  split
  · exact .rfl s
  · next e he =>
    split
    · next d q m hp =>
      set s1 := firingAction e (firingNote i ev e d m s) with hs1
      have h1 : FiringFrame s s1 := by
        rw [hs1, firingAction_eq, firingNote_eq]; constructor <;> rfl
      have he1 : s1.entry i = some e := by simp [hs1, he]
      unfold firingDisposition
      split
      · have hf := freeSlot_frame i s1
        refine h1.trans ⟨hf.1, hf.2.1, hf.2.2.1, ?_, hf.2.2.2.2.2.2.1, hf.2.2.2.2.2.2.2.1,
          hf.2.2.2.2.2.2.2.2.1, hf.2.2.2.2.2.2.2.2.2⟩
        exact freeSlot_armed_captures i s1 e d q m he1 hp
      · exact h1.trans ⟨rfl, rfl, rfl, rfl, rfl, rfl, rfl, rfl⟩
    · exact .rfl s

/-- Firings one after another leave alone what no firing changes (R35). -/
theorem fireAll_frame (ev : FiringEvent) (l : List SlotId) (s : State) :
    FiringFrame s (fireAll ev l s) := by
  induction l generalizing s with
  | nil => exact .rfl s
  | cons i l ih => exact (fire_frame ev s i).trans (ih _)

theorem fireReached_frame (ev : FiringEvent) (s : State) : FiringFrame s (fireReached ev s) :=
  fireAll_frame ev _ s

/-- An arrival leaves alone what no firing changes (R26). -/
theorem arrive_frame (i : SlotId) (e : Entry) (d : Tick) (m : Option LateMark) (s : State) :
    FiringFrame s (arrive i e d m s) := by
  have hj : ∀ m', FiringFrame s (joinQueue i e d m' s) := fun _ => by constructor <;> rfl
  unfold arrive
  split
  · simp only
    split
    · exact (hj _).trans (fire_frame _ _ _)
    · exact hj _
  · exact hj _

/-! ## The capture unit's event (R98) -/

/-- What no event of the capture unit changes: the timeline, the port engines, the authority, the
resets, the place of the event and the waiting commands. -/
structure EdgeFrame (s t : State) : Prop where
  rstN : t.rstN = s.rstN
  resetCause : t.resetCause = s.resetCause
  timeline : t.timeline = s.timeline
  ports : t.ports = s.ports
  authority : t.authority = s.authority
  captureTurn : t.captureTurn = s.captureTurn
  pending : t.pending = s.pending

theorem EdgeFrame.rfl (s : State) : EdgeFrame s s :=
  ⟨.refl _, .refl _, .refl _, .refl _, .refl _, .refl _, .refl _⟩

theorem EdgeFrame.trans {s t u : State} (h : EdgeFrame s t) (k : EdgeFrame t u) :
    EdgeFrame s u :=
  ⟨k.rstN.trans h.rstN, k.resetCause.trans h.resetCause, k.timeline.trans h.timeline,
    k.ports.trans h.ports, k.authority.trans h.authority, k.captureTurn.trans h.captureTurn,
    k.pending.trans h.pending⟩

/-- A firing leaves alone what no event of the capture unit changes. -/
theorem FiringFrame.toEdge {s t : State} (h : FiringFrame s t) : EdgeFrame s t :=
  ⟨h.rstN, h.resetCause, h.timeline, h.ports, h.authority, h.captureTurn, h.pending⟩

/-- The window count of a line (R99). -/
@[simp] theorem cap_countWindows (c : CaptureId) (s : State) :
    (countWindows s).cap c = (s.cap c).countWindow := by simp [State.cap, countWindows]

theorem countWindows_frame (s : State) : EdgeFrame s (countWindows s) := by constructor <;> rfl

/-- A line at an event at which no pin has changed (R98, R99). -/
@[simp] theorem cap_sampleUnchanged (c : CaptureId) (s : State) :
    (sampleUnchanged s).cap c = { (s.cap c).countWindow with sample := some (s.cap c).pin } := by
  simp [State.cap, sampleUnchanged]

theorem sampleUnchanged_frame (s : State) : EdgeFrame s (sampleUnchanged s) := by
  constructor <;> rfl

/-- A released entry joins the queue and touches nothing else (R57). -/
theorem releaseEntry_frame (timestamp : Tick) (s : State) (i : SlotId) :
    EdgeFrame s (releaseEntry timestamp s i) ∧
      (releaseEntry timestamp s i).captures = s.captures := by
  unfold releaseEntry
  split
  · exact ⟨.rfl s, rfl⟩
  · split
    · exact ⟨⟨rfl, rfl, rfl, rfl, rfl, rfl, rfl⟩, rfl⟩
    · exact ⟨.rfl s, rfl⟩

/-- A release leaves alone what no event of the capture unit changes, and every capture line (R41,
R104). -/
theorem releaseEntries_frame (timestamp : Tick) (slots : List SlotId) (s : State) :
    EdgeFrame s (releaseEntries timestamp slots s) ∧
      (releaseEntries timestamp slots s).captures = s.captures := by
  have hj : ∀ (l : List SlotId) (u : State),
      EdgeFrame u (l.foldl (releaseEntry timestamp) u) ∧
        (l.foldl (releaseEntry timestamp) u).captures = u.captures := by
    intro l
    induction l with
    | nil => intro u; exact ⟨.rfl u, rfl⟩
    | cons i l ih =>
      intro u
      have h1 := releaseEntry_frame timestamp u i
      have h2 := ih (releaseEntry timestamp u i)
      exact ⟨h1.1.trans h2.1, h2.2.trans h1.2⟩
  have h := hj slots s
  unfold releaseEntries
  simp only
  split
  · have hf := fireAll_frame .arrival
      (slots.filter (fun i => isReached (slots.foldl (releaseEntry timestamp) s).t
        ((slots.foldl (releaseEntry timestamp) s).due i)))
      (slots.foldl (releaseEntry timestamp) s)
    exact ⟨h.1.trans hf.toEdge, hf.captures.trans h.2⟩
  · exact h

/-- An edge of one line leaves alone what no event of the capture unit changes, and the record of
every other line (R97, R98). -/
theorem takeEdge_frame (c : CaptureId) (edge : Edge) (s : State) :
    EdgeFrame s (takeEdge c edge s) ∧ ∀ d, d ≠ c → (takeEdge c edge s).cap d = s.cap d := by
  unfold takeEdge
  simp only
  split
  · exact ⟨.rfl s, fun _ _ => rfl⟩
  · split
    · exact ⟨by constructor <;> rfl, fun d h => by simp [h]⟩
    · unfold acceptEdge
      simp only
      set u := sendNoteTo (fun p => peek (s.cap c).subscribers p)
        (.capture c edge s.t (!s.running) (s.cap c).suppressed)
        (s.modCap c (CaptureLine.accepted edge s.t (!s.running))) with hu
      have h := releaseEntries_frame s.t
        ((s.cap c).waiting.take ((s.cap c).mode.releases (s.cap c).waiting)) u
      refine ⟨EdgeFrame.trans (by constructor <;> rfl) h.1, fun d hd => ?_⟩
      simp only [State.cap] at *
      rw [h.2, hu]
      simp [State.modCap, sendNoteTo, peek_edit, hd]

/-- The sample of one line leaves alone what no event of the capture unit changes, and the record of
every other line (R97, R98). -/
theorem sampleLine_frame (levels : Vector Level 8) (s : State) (c : CaptureId) :
    EdgeFrame s (sampleLine levels s c) ∧ ∀ d, d ≠ c → (sampleLine levels s c).cap d = s.cap d := by
  unfold sampleLine
  simp only
  split
  · exact ⟨by constructor <;> rfl, fun d h => by simp [h]⟩
  · next edge _ =>
    have h := takeEdge_frame c edge
      (s.modCap c (fun r => { r with pin := peek levels c, sample := some (peek levels c) }))
    refine ⟨EdgeFrame.trans (by constructor <;> rfl) h.1, fun d hd => ?_⟩
    rw [h.2 d hd]; simp [hd]

/-- The capture unit's event leaves alone what no event of it changes (R98). -/
theorem captureEvent_frame (levels : Vector Level 8) (order : List CaptureId) (s : State) :
    EdgeFrame s (captureEvent levels order s) := by
  have h : ∀ (l : List CaptureId) (u : State), EdgeFrame u (l.foldl (sampleLine levels) u) := by
    intro l
    induction l with
    | nil => exact .rfl
    | cons c l ih => exact fun u => (sampleLine_frame levels u c).1.trans (ih _)
  exact (countWindows_frame s).trans (h _ _)

/-! ## The authority and teardown -/

/-- A handover changes the authority and the new holder's queue alone (R145). -/
theorem handOver_frame (p : Port) (c : HandoverCause) (s : State) :
    (handOver p c s).rstN = s.rstN ∧ (handOver p c s).resetCause = s.resetCause ∧
    (handOver p c s).timeline = s.timeline ∧ (handOver p c s).slots = s.slots ∧
    (handOver p c s).queue = s.queue ∧ (handOver p c s).armSeq = s.armSeq ∧
    (handOver p c s).quotas = s.quotas ∧ (handOver p c s).lines = s.lines ∧
    (handOver p c s).captures = s.captures ∧ (handOver p c s).ports = s.ports ∧
    (handOver p c s).captureTurn = s.captureTurn ∧
    (handOver p c s).pending = s.pending := by
  unfold handOver; split <;> simp

/-- The authority record after a handover (R145). -/
theorem authority_handOver (p : Port) (c : HandoverCause) (s : State) :
    (handOver p c s).authority = ⟨s.authority.waitList.head?, s.authority.waitList.tail⟩ := by
  unfold handOver; split <;> simp_all

/-- The arbiter's part of a teardown changes the authority and one queue alone (R146). -/
theorem teardownAuthority_frame (p : Port) (s : State) :
    (teardownAuthority p s).rstN = s.rstN ∧ (teardownAuthority p s).resetCause = s.resetCause ∧
    (teardownAuthority p s).timeline = s.timeline ∧ (teardownAuthority p s).slots = s.slots ∧
    (teardownAuthority p s).queue = s.queue ∧ (teardownAuthority p s).armSeq = s.armSeq ∧
    (teardownAuthority p s).quotas = s.quotas ∧ (teardownAuthority p s).lines = s.lines ∧
    (teardownAuthority p s).captures = s.captures ∧ (teardownAuthority p s).ports = s.ports ∧
    (teardownAuthority p s).captureTurn = s.captureTurn ∧
    (teardownAuthority p s).pending = s.pending := by
  unfold teardownAuthority
  split
  · exact handOver_frame p _ s
  · simp

/-- A teardown does not reach the timeline, the arm sequence counter, the port engines, the resets
or the waiting commands (R137). -/
theorem teardown_frame (p : Port) (s : State) :
    (teardown p s).rstN = s.rstN ∧ (teardown p s).resetCause = s.resetCause ∧
    (teardown p s).timeline = s.timeline ∧ (teardown p s).armSeq = s.armSeq ∧
    (teardown p s).ports = s.ports ∧
    (teardown p s).captureTurn = s.captureTurn ∧ (teardown p s).pending = s.pending := by
  simp [teardown, teardownAuthority_frame, teardownSlots]

/-- The slots after a teardown: the port's are freed, the others stand (R68). -/
theorem slot_teardown (p : Port) (i : SlotId) (s : State) :
    (teardown p s).slot i = if s.ownsSlot p i then (s.slot i).freed else s.slot i := by
  simp only [State.slot, teardown, teardownAuthority_frame, modNotes_slots]
  simp [teardownSlots]

/-- The queue after a teardown (R42). -/
theorem queue_teardown (p : Port) (s : State) :
    (teardown p s).queue = s.queue.filter (fun i => !s.ownsSlot p i) := by
  simp [teardown, teardownAuthority_frame, teardownSlots]

/-- The allocation table after a teardown (R79). -/
theorem quota_teardown (p q : Port) (s : State) :
    (teardown p s).quota q = if q = p then { s.quota p with usage := 0 } else s.quota q := by
  simp only [State.quota, teardown, teardownAuthority_frame, modNotes_quotas]
  simp [teardownSlots, peek_edit]

/-- The trigger lines after a teardown (R94). -/
theorem line_teardown (p : Port) (l : LineId) (s : State) :
    (teardown p s).line l = (s.line l).teardown p := by
  simp [State.line, teardown, teardownAuthority_frame]

/-- The capture lines after a teardown (R112). -/
theorem cap_teardown (p : Port) (c : CaptureId) (s : State) :
    (teardown p s).cap c = (s.cap c).teardown p (s.ownsSlot p) := by
  simp [State.cap, teardown, teardownAuthority_frame]

/-- The expiry of a lease reaches no other port's engine, and neither the timeline nor the arm
sequence counter (R134, R137). -/
theorem expireLease_frame (p : Port) (s : State) :
    (expireLease p s).rstN = s.rstN ∧ (expireLease p s).resetCause = s.resetCause ∧
    (expireLease p s).timeline = s.timeline ∧ (expireLease p s).armSeq = s.armSeq ∧
    (expireLease p s).captureTurn = s.captureTurn ∧
    (expireLease p s).pending = s.pending := by
  simp [expireLease, teardown_frame]

/-- A lease count leaves the timeline, the arm sequence counter and the resets alone (R132). -/
theorem countLease_frame (p : Port) (s : State) :
    (countLease p s).rstN = s.rstN ∧ (countLease p s).resetCause = s.resetCause ∧
    (countLease p s).timeline = s.timeline ∧ (countLease p s).armSeq = s.armSeq ∧
    (countLease p s).captureTurn = s.captureTurn ∧
    (countLease p s).pending = s.pending := by
  unfold countLease
  simp only
  split
  · exact expireLease_frame p s
  · split
    · simp
    · split <;> simp

/-! ## The take -/

/-- A renewal touches the sending port's session record alone (R133). -/
theorem renewLease_frame (p : Port) (s : State) :
    (renewLease p s).rstN = s.rstN ∧ (renewLease p s).resetCause = s.resetCause ∧
    (renewLease p s).timeline = s.timeline ∧ (renewLease p s).slots = s.slots ∧
    (renewLease p s).queue = s.queue ∧ (renewLease p s).armSeq = s.armSeq ∧
    (renewLease p s).quotas = s.quotas ∧ (renewLease p s).lines = s.lines ∧
    (renewLease p s).captures = s.captures ∧ (renewLease p s).notes = s.notes ∧
    (renewLease p s).authority = s.authority ∧
    (renewLease p s).captureTurn = s.captureTurn ∧ (renewLease p s).pending = s.pending := by
  unfold renewLease; split <;> simp

/-- The session records after a renewal (R133). -/
theorem session_renewLease (p q : Port) (s : State) :
    (renewLease p s).session q
      = if q = p ∧ (s.session p).counting then (s.session p).loadLease else s.session q := by
  unfold renewLease
  split
  · next h => simp [h]
  · next h => simp [h]

/-- The end of a take touches the sending port's engine alone: its receiver and its replay record
(R155, R159). -/
theorem finish_frame (p : Port) (seq check : Byte) (st : Status) (data : List Byte) (s : State) :
    (finish p seq check st data s).rstN = s.rstN ∧
    (finish p seq check st data s).resetCause = s.resetCause ∧
    (finish p seq check st data s).timeline = s.timeline ∧
    (finish p seq check st data s).slots = s.slots ∧
    (finish p seq check st data s).queue = s.queue ∧
    (finish p seq check st data s).armSeq = s.armSeq ∧
    (finish p seq check st data s).quotas = s.quotas ∧
    (finish p seq check st data s).lines = s.lines ∧
    (finish p seq check st data s).captures = s.captures ∧
    (finish p seq check st data s).notes = s.notes ∧
    (finish p seq check st data s).authority = s.authority ∧
    (finish p seq check st data s).captureTurn = s.captureTurn ∧
    (finish p seq check st data s).pending = s.pending := by
  simp [finish]

/-- The port engines after the end of a take. -/
theorem port_finish (p q : Port) (seq check : Byte) (st : Status) (data : List Byte) (s : State) :
    (finish p seq check st data s).port q
      = if q = p then
          { s.port p with
            receiver := .answering (buildResponse p st data s) 0
            replay := replayRecord seq check (buildResponse p st data s) }
        else s.port q := by
  unfold finish
  simp only [port_startAnswer, port_modPort]
  split <;> simp_all

/-- A frame that reaches a receiver whose bytes it begins with, and that is neither a framing error
nor a replay, is taken (R155). -/
theorem frameArrives_take (p : Port) (code seq : Byte) (args : List Byte)
    (verdict : State → Verdict) (s : State) (bytes : List Byte) (copy : Byte)
    (hr : s.rstN = .high) (hp : (s.port p).receiver = .receiving bytes copy)
    (hb : bytes.isPrefixOf (frameBody code seq args) = true) (ha : args.length ≤ 24)
    (hn : replayOf (s.port p) seq (frameCheck code seq args) = none) :
    frameArrives p code seq args (frameCheck code seq args) verdict s
      = .next (takeFrame p seq (frameCheck code seq args) verdict s) := by
  have h1 : ¬ 255 < args.length := by omega
  have h2 : ¬ Config.maxArgs < args.length := by simp only [Config.maxArgs]; omega
  simp [frameArrives, State.held, hr, hp, hb, h1, h2, decideFrame, hn]

/-- A frame row answers a next state on every frame that a host can send (R153). -/
theorem frameArrives_next (p : Port) (code seq : Byte) (args : List Byte) (check : Byte)
    (verdict : State → Verdict) (s : State) (ha : args.length ≤ 255) :
    ∃ t, frameArrives p code seq args check verdict s = .next t := by
  unfold frameArrives
  rw [if_neg (by omega)]
  split
  · exact ⟨_, rfl⟩
  · split
    · split
      · split <;> exact ⟨_, rfl⟩
      · exact ⟨_, rfl⟩
    · exact ⟨_, rfl⟩

end Sys2Proof.Machine
end

