-- ==== Sys2Proof/Laws/Take.lean ====
section
/-! SUPPORT. The take of a frame, said once in the terms of the statements: a command that is refused,
and one that is carried out on the state its renewal left. -/

namespace Sys2Proof.Machine

/-! ## What is left alone -/

theorem KeepsAllBut.refl (l : List Part) (s : State) : KeepsAllBut l s s := by
  intro a _; cases a <;> rfl

theorem KeepsAllBut.trans {l : List Part} {s t u : State} (h : KeepsAllBut l s t)
    (k : KeepsAllBut l t u) : KeepsAllBut l s u := by
  intro a ha
  have h1 := h a ha
  have h2 := k a ha
  cases a <;> exact Eq.trans h2 h1

theorem KeepsAllBut.mono {l m : List Part} {s t : State} (h : KeepsAllBut l s t) (hl : l ⊆ m) :
    KeepsAllBut m s t := fun a ha => h a (fun hm => ha (hl hm))

/-! ## A renewal -/

/-- The model's renewal is the statements' renewal (R133). -/
theorem renewed_eq (ss : Session) :
    renewed ss = if ss.counting = true then ss.loadLease else ss := by
  simp only [renewed, Session.counting, Session.loadLease]
  congr 1
  simp

theorem port_renewLease (p q : Port) (s : State) :
    (renewLease p s).port q
      = if q = p then { s.port p with session := renewed (s.session p) } else s.port q := by
  unfold renewLease
  split
  · next h => simp [renewed_eq, h]
  · next h => simp [renewed_eq, h]; intro hq; subst hq; rfl

theorem renewLease_keeps (p : Port) (s : State) : KeepsAllBut [.ports] s (renewLease p s) := by
  have h := renewLease_frame p s
  intro a ha
  cases a <;> simp_all [Part.Same]

/-- A renewal leaves a state whose session is, if anything, as attached as it was. -/
@[simp] theorem renewed_state (ss : Session) : (renewed ss).state = ss.state := by
  unfold renewed; split <;> rfl

@[simp] theorem renewed_epoch (ss : Session) : (renewed ss).epoch = ss.epoch := by
  unfold renewed; split <;> rfl

@[simp] theorem renewed_leasePeriod (ss : Session) : (renewed ss).leasePeriod = ss.leasePeriod := by
  unfold renewed; split <;> rfl

@[simp] theorem renewed_lastEnd (ss : Session) : (renewed ss).lastEnd = ss.lastEnd := by
  unfold renewed; split <;> rfl

@[simp] theorem renewLease_rstN (p : Port) (s : State) : (renewLease p s).rstN = s.rstN :=
  (renewLease_frame p s).1
@[simp] theorem renewLease_resetCause (p : Port) (s : State) :
    (renewLease p s).resetCause = s.resetCause := (renewLease_frame p s).2.1
@[simp] theorem renewLease_timeline (p : Port) (s : State) :
    (renewLease p s).timeline = s.timeline := (renewLease_frame p s).2.2.1
@[simp] theorem renewLease_slots (p : Port) (s : State) : (renewLease p s).slots = s.slots :=
  (renewLease_frame p s).2.2.2.1
@[simp] theorem renewLease_queue (p : Port) (s : State) : (renewLease p s).queue = s.queue :=
  (renewLease_frame p s).2.2.2.2.1
@[simp] theorem renewLease_armSeq (p : Port) (s : State) : (renewLease p s).armSeq = s.armSeq :=
  (renewLease_frame p s).2.2.2.2.2.1
@[simp] theorem renewLease_quotas (p : Port) (s : State) : (renewLease p s).quotas = s.quotas :=
  (renewLease_frame p s).2.2.2.2.2.2.1
@[simp] theorem renewLease_lines (p : Port) (s : State) : (renewLease p s).lines = s.lines :=
  (renewLease_frame p s).2.2.2.2.2.2.2.1
@[simp] theorem renewLease_captures (p : Port) (s : State) :
    (renewLease p s).captures = s.captures := (renewLease_frame p s).2.2.2.2.2.2.2.2.1
@[simp] theorem renewLease_notes (p : Port) (s : State) : (renewLease p s).notes = s.notes :=
  (renewLease_frame p s).2.2.2.2.2.2.2.2.2.1
@[simp] theorem renewLease_authority (p : Port) (s : State) :
    (renewLease p s).authority = s.authority := (renewLease_frame p s).2.2.2.2.2.2.2.2.2.2.1
@[simp] theorem renewLease_pending (p : Port) (s : State) :
    (renewLease p s).pending = s.pending := (renewLease_frame p s).2.2.2.2.2.2.2.2.2.2.2.2
@[simp] theorem renewLease_captureTurn (p : Port) (s : State) :
    (renewLease p s).captureTurn = s.captureTurn :=
  (renewLease_frame p s).2.2.2.2.2.2.2.2.2.2.2.1

@[simp] theorem renewLease_slot (p : Port) (i : SlotId) (s : State) :
    (renewLease p s).slot i = s.slot i := by simp [State.slot]
@[simp] theorem renewLease_entry (p : Port) (i : SlotId) (s : State) :
    (renewLease p s).entry i = s.entry i := by simp [State.entry]
@[simp] theorem renewLease_quota (p q : Port) (s : State) :
    (renewLease p s).quota q = s.quota q := by simp [State.quota]
@[simp] theorem renewLease_line (p : Port) (l : LineId) (s : State) :
    (renewLease p s).line l = s.line l := by simp [State.line]
@[simp] theorem renewLease_cap (p : Port) (c : CaptureId) (s : State) :
    (renewLease p s).cap c = s.cap c := by simp [State.cap]
@[simp] theorem renewLease_noteQueue (p q : Port) (s : State) :
    (renewLease p s).noteQueue q = s.noteQueue q := by simp [State.noteQueue]
@[simp] theorem renewLease_running (p : Port) (s : State) :
    (renewLease p s).running = s.running := by simp [State.running]
@[simp] theorem renewLease_holds (p q : Port) (s : State) :
    (renewLease p s).holds q = s.holds q := by simp [State.holds]
@[simp] theorem renewLease_due (p : Port) (i : SlotId) (s : State) :
    (renewLease p s).due i = s.due i := by simp [State.due]
@[simp] theorem renewLease_handle (p : Port) (i : SlotId) (s : State) :
    (renewLease p s).handle i = s.handle i := by simp [State.handle]
@[simp] theorem renewLease_ownsSlot (p q : Port) (i : SlotId) (s : State) :
    (renewLease p s).ownsSlot q i = s.ownsSlot q i := by simp [State.ownsSlot]
@[simp] theorem renewLease_poolSize (p : Port) (s : State) :
    (renewLease p s).poolSize = s.poolSize := by simp [State.poolSize]
@[simp] theorem renewLease_sharedUse (p : Port) (s : State) :
    (renewLease p s).sharedUse = s.sharedUse := by simp [State.sharedUse]
@[simp] theorem renewLease_waitPosition (p q : Port) (s : State) :
    (renewLease p s).waitPosition q = s.waitPosition q := by simp [State.waitPosition]

/-- Every session after a renewal (R133). -/
theorem session_renewed (p q : Port) (s : State) :
    (renewLease p s).session q = if q = p then renewed (s.session p) else s.session q := by
  simp only [State.session, port_renewLease]; split <;> rfl

@[simp] theorem renewLease_session_state (p q : Port) (s : State) :
    ((renewLease p s).session q).state = (s.session q).state := by
  rw [session_renewed]; split <;> simp_all

@[simp] theorem renewLease_attached (p q : Port) (s : State) :
    (renewLease p s).attached q = s.attached q := by simp [State.attached]

/-! ## A take -/

/-- The frame of a known command that is a take is taken (R155). -/
theorem commandRow_take {c : Command} {p : Port} {seq : Byte} {args : List Byte} {s : State}
    (run : State → Verdict) (h : IsTake p c seq args s) :
    commandRow c p seq args run s
      = .next (takeFrame p seq (frameCheck c.code seq args) (judge c p args run) s) := by
  obtain ⟨⟨hr, ha, hb⟩, hn⟩ := h
  unfold Receiver.holdsStartOf at hb
  split at hb
  · next bytes copy hp =>
    refine frameArrives_take p c.code seq args _ s bytes copy hr hp hb ha ?_
    unfold replayOf
    rw [if_neg]
    intro hc
    apply hn
    simp at hc
    exact ⟨hc.1.1, hc.1.2, hc.2⟩
  · simp at hb

/-- The response that a take builds is the statements' answer (R156). -/
theorem answer_finish (p : Port) (seq check : Byte) (st : Status) (data : List Byte) (u : State) :
    answer p st data (finish p seq check st data u) = buildResponse p st data u := by
  have h := finish_frame p seq check st data u
  simp [answer, buildResponse, State.notesPending, State.holds, State.noteQueue, h]

/-- What a take leaves in the port engines, when the command itself touched none (R155, R159). -/
theorem answered_finish (p : Port) (code seq : Byte) (args : List Byte) (st : Status)
    (data : List Byte) (s u : State) (hu : u.ports = (renewLease p s).ports) :
    Answered p code seq args st data (renewed (s.session p)) s
      (finish p seq (frameCheck code seq args) st data u) := by
  have hq : ∀ q, u.port q = (renewLease p s).port q := fun q => by simp [State.port, hu]
  refine ⟨?_, fun q hne => ?_⟩
  · rw [port_finish, if_pos rfl, answer_finish, hq, port_renewLease, if_pos rfl]; rfl
  · rw [port_finish, if_neg hne, hq, port_renewLease, if_neg hne]

/-- A finished take keeps what its command kept, but for the sending port's engine. -/
theorem finish_keeps {l : List Part} {s u : State} (p : Port) (seq check : Byte) (st : Status)
    (data : List Byte) (h : KeepsAllBut l s u) :
    KeepsAllBut (.ports :: l) s (finish p seq check st data u) := by
  have hf := finish_frame p seq check st data u
  intro a ha
  have hk := h a (fun hm => ha (List.mem_cons_of_mem _ hm))
  cases a <;> simp_all [Part.Same]

/-- A refused command (R162). -/
theorem refused_take {p : Port} {code seq : Byte} {args : List Byte} {s : State} {st : Status}
    {verdict : State → Verdict} (hv : verdict (renewLease p s) = .error st) :
    RefusedWith code p seq args st s
      (takeFrame p seq (frameCheck code seq args) verdict s) := by
  unfold takeFrame
  simp only [hv]
  exact ⟨answered_finish p code seq args st [] s _ rfl,
    (finish_keeps p seq _ st [] (renewLease_keeps p s)).mono (by simp)⟩

/-- A command carried out that touches no port engine (R155, R162). -/
theorem carried_take {c : Command} {p : Port} {seq : Byte} {args data : List Byte} {s u : State}
    {l : List Part} {verdict : State → Verdict}
    (hv : verdict (renewLease p s) = .ok ⟨.ok, data, u⟩) (hp : u.ports = (renewLease p s).ports)
    (hk : KeepsAllBut l (renewLease p s) u) :
    takeFrame p seq (frameCheck c.code seq args) verdict s
      = finish p seq (frameCheck c.code seq args) .ok data u ∧
    CarriedOut c p seq args data l s (finish p seq (frameCheck c.code seq args) .ok data u) := by
  refine ⟨by simp [takeFrame, hv], answered_finish p _ seq args .ok data s u hp, ?_⟩
  have h1 : KeepsAllBut (.ports :: l) s u :=
    ((renewLease_keeps p s).mono (by simp)).trans (hk.mono (by simp))
  exact (finish_keeps p seq _ .ok data h1).mono (by simp)

/-- A command that passes the general checks is decided by its own rule (R162). -/
theorem judge_attached {c : Command} {p : Port} {args : List Byte} {s : State}
    (run : State → Verdict) (hl : c.lengthFits args = true)
    (ha : (s.session p).state = .attached) (hg : guarded c = true → s.holds p = true) :
    judge c p args run (renewLease p s) = run (renewLease p s) := by
  unfold judge generalCheck
  simp [hl, ha, refusedBy]
  cases hc : guarded c <;> simp_all

end Sys2Proof.Machine
end

