-- ==== Sys2Proof/Laws/Wire.lean ====
section
/-! SUPPORT. The model's bytes, lengths, sums and causes are those the statements write out. -/

namespace Sys2Proof

/-- The CRC of the model is the statements' check byte (R168). -/
theorem checkByte_eq (bytes : List Byte) : checkByte bytes = crc8 bytes := rfl

/-- The good check byte of a command (R168). -/
theorem checkByte_envelope (code seq : Byte) (args : List Byte) :
    checkByte (envelope code seq args) = frameCheck code seq args := rfl

theorem envelope_eq (code seq : Byte) (args : List Byte) :
    envelope code seq args = frameBody code seq args := rfl

/-- The optional fields' length, by the bits of the flags byte (R51, R169). -/
theorem optionLength_eq (flags : Byte) (withLine : Bool) :
    optionLength flags withLine
      = 4 * (flags.toNat / 16 % 2) + 2 * (flags.toNat / 32 % 2)
        + (if withLine = true then 4 else 0) * (flags.toNat / 64 % 2) := by
  revert flags withLine; decide +kernel

/-- The model's length step is R163's. -/
theorem lengthFits_iff (c : Command) (args : List Byte) :
    c.lengthFits args = true ↔ c.LengthRight args := by
  have key : ∀ n line (b : Bool), line = (if b = true then 4 else 0) →
      ((3 ≤ args.length && args.length == n + optionLength (argByte args 2) b) = true ↔
        args[2]?.map (fun f => n + (4 * (f.toNat / 16 % 2) + 2 * (f.toNat / 32 % 2)
          + line * (f.toNat / 64 % 2))) = some args.length) := by
    intro n line b hl
    rcases Nat.lt_or_ge 2 args.length with h | h
    · have h3 : 3 ≤ args.length := h
      simp only [argByte, List.getD_eq_getElem?_getD, List.getElem?_eq_getElem h,
        Option.getD_some, Option.map_some, optionLength_eq, hl, decide_eq_true h3, Bool.true_and,
        beq_iff_eq, Option.some.injEq]
      exact eq_comm
    · have h3 : ¬ 3 ≤ args.length := by omega
      simp only [List.getElem?_eq_none h, decide_eq_false h3, Bool.false_and, Option.map_none,
        Bool.false_eq_true, reduceCtorEq]
  cases c <;> unfold Command.lengthFits Command.LengthRight Command.lengthCalledFor <;>
    first
    | exact key _ 4 true rfl
    | exact key _ 0 false rfl
    | simp only [beq_iff_eq, Option.some.injEq]; exact eq_comm

end Sys2Proof

namespace Sys2Proof.Machine

theorem flags_eq (r : Response) :
    r.flags = BitVec.ofNat 8
      (128 * r.replay.toNat + 64 * r.notesPending.toNat + 32 * r.holder.toNat) := by
  unfold Response.flags
  cases r.replay <;> cases r.notesPending <;> cases r.holder <;> decide

theorem statusCode_eq (st : Status) : st.code = st.onWire := by cases st <;> rfl

/-- The model's response bytes are R156's. -/
theorem Response.bytes_eq (r : Response) : r.bytes = r.onWire := by
  simp only [Response.bytes, Response.body, Response.onWire, flags_eq, statusCode_eq, checkByte_eq,
    nat8]

/-- A response is four bytes longer than its data (R156). -/
@[simp] theorem length_bytes (r : Response) : r.bytes.length = r.data.length + 4 := by
  simp [Response.bytes, Response.body]

theorem be16_eq (x : BitVec 16) : be16 x = bigEndian 2 x.toNat := by
  simp only [be16, bigEndian, List.range, List.range.loop, List.map_cons, List.map_nil]
  congr 1
  · apply BitVec.eq_of_toNat_eq; simp [BitVec.extractLsb', Nat.shiftRight_eq_div_pow]
  · congr 1; apply BitVec.eq_of_toNat_eq; simp [BitVec.extractLsb', Nat.shiftRight_eq_div_pow]

theorem be32_eq (x : BitVec 32) : be32 x = bigEndian 4 x.toNat := by
  simp only [be32, bigEndian, List.range, List.range.loop, List.map_cons, List.map_nil]
  refine congrArg₂ _ ?_ (congrArg₂ _ ?_ (congrArg₂ _ ?_ (congrArg₂ _ ?_ rfl))) <;>
    (apply BitVec.eq_of_toNat_eq; simp [BitVec.extractLsb', Nat.shiftRight_eq_div_pow])

theorem be48_eq (x : BitVec 48) : be48 x = bigEndian 6 x.toNat := by
  simp only [be48, bigEndian, List.range, List.range.loop, List.map_cons, List.map_nil]
  refine congrArg₂ _ ?_ (congrArg₂ _ ?_ (congrArg₂ _ ?_ (congrArg₂ _ ?_ (congrArg₂ _ ?_
    (congrArg₂ _ ?_ rfl))))) <;>
    (apply BitVec.eq_of_toNat_eq; simp [BitVec.extractLsb', Nat.shiftRight_eq_div_pow])

/-- The model's note records are R171's. -/
theorem Note.bytes_eq (n : Note) : n.bytes = n.onWire := by
  cases n with
  | fired h tag due at' cause missed final =>
    cases cause <;> cases final <;> simp [Note.bytes, Note.onWire, be16_eq, be48_eq, Cause.code]
  | capture line edge ts nr sup =>
    cases edge <;> cases nr <;>
      simp [Note.bytes, Note.onWire, be48_eq, fill20, nat8, bits, bigEndian]
  | timeline op a b =>
    cases op <;> simp [Note.bytes, Note.onWire, be48_eq, fill20, TimelineOp.code, bigEndian]
  | authority p c =>
    cases c <;> simp [Note.bytes, Note.onWire, fill20, nat8, HandoverCause.code]
  | loss c => simp [Note.bytes, Note.onWire, be16_eq, fill20, bigEndian]

theorem sumPorts_eq (f : Port → Nat) : sumPorts f = overPorts f := by
  have h : allPorts = [0, 1, 2, 3] := rfl
  simp [sumPorts, h, overPorts]; omega

/-- The pool's figures are R71's. -/
@[simp] theorem State.poolSize_eq (s : State) : s.poolSize = Sys2Proof.Machine.poolSize s := by
  simp [State.poolSize, Sys2Proof.Machine.poolSize, sumPorts_eq, Config.storeSize]

@[simp] theorem State.sharedUse_eq (s : State) : s.sharedUse = Sys2Proof.Machine.sharedUse s := by
  simp [State.sharedUse, Sys2Proof.Machine.sharedUse, sumPorts_eq]

/-- The cause of a firing of a reached entry is R27's. -/
theorem causeOf_eq (ev : FiringEvent) (late : Option LateMark) (t due : Tick)
    (h : distance t due ≤ 0) : causeOf ev late t due = reportedCause ev late t due := by
  rcases late with _ | (_ | _) <;> cases ev <;> simp [causeOf, reportedCause, isPast]
  all_goals split <;> split <;> first | rfl | omega

end Sys2Proof.Machine
end

