-- ==== Sys2Proof/Tests/Slice0.lean ====
section
/-! SUPPORT. Tests: each expected value comes from the manual's rule, table or worked example that the
test names. The second part shows, for every statement with hypotheses, states and operands that meet
them. -/

namespace Sys2Proof.Tests
open Sys2Proof Sys2Proof.Machine

set_option Elab.async false

/-! ## Small states -/

/-- The state a command leaves. -/
def after (i : Instr) (s : State) : State :=
  match exec i s with
  | .next t => t
  | _ => s

/-- A port's receiver has the first bytes of a frame. -/
def hearing (p : Port) (bytes : List Byte) (s : State) : State :=
  s.modPort p (fun e => { e with select := .low, receiver := .receiving bytes 0 })

/-- The frame of a command has been taken. -/
def sent (p : Port) (c : Command) (args : List Byte) (s : State) : State :=
  after (c.row p 1 args) (hearing p [] s)

/-- The status and data a port is answering with. -/
def answerOf (p : Port) (s : State) : Option (Status × List Byte) :=
  match (s.port p).receiver with
  | .answering r _ => some (r.status, r.data)
  | _ => none

/-- Every port is ATTACHED without a lease and port 0 holds the authority; T is 1,000. -/
def demo (state : TimelineState) : State :=
  { State.reset with
    timeline := ⟨1000, state, none⟩
    ports := Vector.replicate 4
      { PortEngine.reset .high with session := { Session.reset with state := .attached } }
    authority := ⟨some 0, []⟩ }

/-- A slot holds an entry, in the place it calls for. -/
def withEntry (i : SlotId) (gen : BitVec 8) (e : Entry) (s : State) : State :=
  let s' := (s.modSlot i (fun _ => ⟨gen, some e⟩)).modQuota e.owner
    (fun q => { q with usage := q.usage + 1 })
  match e.place with
  | .armed _ _ _ => { s' with queue := s'.queue ++ [i] }
  | .waiting c _ => s'.modCap c (fun r => { r with waiting := r.waiting ++ [i] })
  | .paused _ _ => s'

/-- A one-shot ABSOLUTE entry with notify. -/
def oneShot (p : Port) (place : Place) : Entry :=
  ⟨p, 0, .absolute, true, none, none, none, place⟩

/-- The CAP pins at HIGH on these lines and at LOW on the others. -/
def pins (lines : List CaptureId) : Vector Level 8 :=
  Vector.ofFn (fun c => if lines.contains c then .high else .low)

/-- A port has a lease, with so much of it left. -/
def leased (p : Port) (period remaining phase : BitVec 16) (s : State) : State :=
  s.modSession p
    (fun ss => { ss with leasePeriod := period, leaseRemaining := remaining, unitPhase := phase })

/-- A port's session state is changed. -/
def inState (p : Port) (st : SessionState) (s : State) : State :=
  s.modSession p (fun ss => { ss with state := st })

/-- A trigger line is owned, with a level and a pulse. -/
def owned (p : Port) (l : LineId) (level : Activity) (pulse : Option (BitVec 16)) (s : State) :
    State :=
  s.modLine l (fun r => { r with owner := some p, level := level, pulse := pulse })

/-- A queue holds so many AUTHORITY notes. -/
def noted (p : Port) (n : Nat) (s : State) : State :=
  s.modNotes p (fun q => { q with records := List.replicate n (.authority 0 .release) })

/-- CAP3 as in the manual's example 6.9, owned by port 1. -/
def cap3 (sample : Level) (window : Option (BitVec 16)) (s : State) : State :=
  s.modCap 3 (fun r =>
    { r with
      owner := some 1, edgeSelect := .rise, holdoff := 50, sample := some sample, window := window })

/-! ## Which terms are commands -/

theorem test_length_24_is_no_bad_length : (Instr.badFrameLength 0 0x02 1 24).wellFormed = false := by
  decide
theorem test_good_check_is_no_bad_frame : (Instr.badFrame 0 0x02 1 [] 0xE8).wellFormed = false := by
  decide +kernel
theorem test_bad_frame_args_fit :
    (Instr.badFrame 0 0x02 1 (List.replicate 25 0) 0).wellFormed = false := by
  decide +kernel
theorem test_sequence_0_is_no_replay : (Instr.replay 0 0x02 0 []).wellFormed = false := by decide
theorem test_replay_args_fit :
    (Instr.replay 0 0x02 1 (List.replicate 25 0)).wellFormed = false := by decide +kernel
theorem test_status_is_no_unknown_command :
    (Instr.unknownCommand 0 0x02 1 []).wellFormed = false := by decide
theorem test_unknown_args_fit :
    (Instr.unknownCommand 0 0x00 1 (List.replicate 25 0)).wellFormed = false := by decide +kernel
theorem test_command_args_fit :
    Command.all.all (fun c => !(c.row 0 1 (List.replicate 25 0)).wellFormed) = true := by
  decide +kernel
theorem test_capture_order_fits :
    (Instr.captureEdge (pins []) [3, 3] true).wellFormed = false := by decide +kernel
theorem test_wellFormed_accepts :
    (Instr.captureEdge (pins [3]) [3, 0] true).wellFormed = true ∧
    (Instr.badFrameLength 0 0x30 1 25).wellFormed = true ∧
    (Instr.badFrame 0 0x02 1 [] 0xE9).wellFormed = true ∧
    (Instr.replay 0 0x02 1 []).wellFormed = true ∧
    (Instr.unknownCommand 0 0x01 1 []).wellFormed = true := by decide +kernel

/-! ## Formats -/

/-- R168: the register after each byte of STATUS with sequence 01h. -/
theorem test_crc_of_status : crc8 [0x02] = 0xFD ∧ crc8 [0x02, 0x01] = 0xFA ∧
    crc8 [0x02, 0x01, 0x00] = 0xE8 ∧ frameCheck 0x02 0x01 [] = 0xE8 := by decide
/-- R163: codes 00h and 01h are unknown; each command's code names it. -/
theorem test_codes : Command.ofCode 0x00 = none ∧ Command.ofCode 0x01 = none ∧
    Command.all.all (fun c => Command.ofCode c.code == some c) = true := by decide +kernel
/-- R51, R55, R58: the longest ARM, ARM_ON_CAPTURE and MODIFY. -/
theorem test_option_lengths :
    Command.arm.lengthFits ([0, 0, 0x72] ++ List.replicate 16 0) = true ∧
    Command.armOnCapture.lengthFits ([0, 0, 0x72] ++ List.replicate 15 0) = true ∧
    Command.modify.lengthFits ([0, 0, 0x72] ++ List.replicate 12 0) = true ∧
    Command.arm.lengthFits [0, 0] = false := by decide
theorem test_no_word_spells_a_command : decodeTableWord 8 0x02 = none := by decide
/-- R171: a FIRED record with FINAL. -/
theorem test_fired_record :
    (Note.fired 0x0702 0x0005 10500 10500 .stepped 2 true).bytes =
      [0x01, 0x82, 0x07, 0x02, 0x00, 0x05, 0, 0, 0, 0, 0x29, 0x04, 0, 0, 0, 0, 0x29, 0x04, 0, 2] :=
  by decide
/-- R166, R171: the amount of a SLEW_CUT note is sign-extended. -/
theorem test_slew_cut_record :
    (Note.timeline .slewCut 5149 (BitVec.signExtend 48 (-1 : BitVec 32))).bytes =
      [0x03, 0x05, 0, 0, 0, 0, 0x14, 0x1D, 0xFF, 0xFF, 0xFF, 0xFF, 0xFF, 0xFF, 0, 0, 0, 0, 0, 0] :=
  by decide

/-! ## Reset -/

theorem test_power_on : (after .powerOn (demo .running)).timeline = ⟨0, .idle, none⟩ := by
  decide +kernel
/-- R48: an entry is freed and its generation advances, a FREE slot keeps its own. -/
theorem test_device_reset_generations :
    let t := after .deviceReset
      ((withEntry 3 4 (oneShot 1 (.armed 5000 0 none)) (demo .running)).modSlot 4
        (fun _ => ⟨7, none⟩))
    t.slot 3 = ⟨5, none⟩ ∧ t.slot 4 = ⟨7, none⟩ := by decide +kernel
/-- R128: example 8.8, the last end cause after a reset. -/
theorem test_device_reset_session :
    ((after .deviceReset (demo .halted)).session 2).lastEnd = .deviceReset ∧
    (after .deviceReset (demo .halted)).resetCause = .resetPin := by decide +kernel
theorem test_reset_release :
    (after .resetRelease (after .deviceReset (demo .running))).timeline = ⟨0, .idle, none⟩ := by
  decide +kernel

/-! ## Cycles -/

/-- R3: T passes from 2^48 − 1 to 0. -/
theorem test_advance_wraps :
    (after (.timelineAdvance Held.nothing)
      { demo .running with timeline := ⟨BitVec.allOnes 48, .running, none⟩ }).t = 0 := by
  decide +kernel
theorem test_halted_cycle_keeps_T :
    (after (.refclkCycle Held.nothing) (demo .halted)).t = 1000 := by decide +kernel
/-- Example 1.9, cycle 16. -/
theorem test_slew_cycle :
    (after (.slewCycle Held.nothing)
      { demo .running with timeline := ⟨1015, .running, some ⟨3, 3, 16, 15⟩⟩ }).timeline =
      ⟨1017, .running, some ⟨2, 3, 16, 0⟩⟩ := by decide +kernel
/-- Example 1.9, cycle 8 after START. -/
theorem test_slew_done :
    let t := after (.slewDone Held.nothing)
      { demo .running with timeline := ⟨1049, .running, some ⟨1, 3, 16, 15⟩⟩ }
    t.timeline = ⟨1051, .running, none⟩ ∧
    (t.noteQueue 2).records = [.timeline .slewDone 1051 3] := by decide +kernel
theorem test_pulse_expiry :
    ((after (.pulseExpiry 6) (owned 2 6 .active (some 1) (demo .halted))).line 6).level = .idle := by
  decide +kernel
theorem test_holdoff_window_close :
    ((after (.holdoffWindowClose 3) (cap3 .low (some 1) (demo .halted))).cap 3).window = none := by
  decide +kernel
/-- Example 8.8: the boundary at cycle 65,536 lowers lease remaining from 2 to 1. -/
theorem test_lease_unit_boundary :
    (after (.leaseUnitBoundary 2) (leased 2 2 2 65535 (demo .halted))).session 2 =
      ⟨.attached, 0, 2, 1, 0, .none⟩ := by decide +kernel
/-- Example 8.8: the expiry. -/
theorem test_lease_expiry :
    (after (.leaseExpiry 2) (leased 2 2 1 65535 (demo .halted))).session 2 =
      ⟨.expired, 0, 2, 0, 0, .leaseExpired⟩ := by decide +kernel
/-- R146: the expiry of the holder's lease hands the token to the head of the wait list. -/
theorem test_lease_expiry_hands_over :
    let t := after (.leaseExpiry 0)
      { leased 0 2 1 65535 (demo .halted) with authority := ⟨some 0, [3, 1]⟩ }
    t.authority = ⟨some 3, [1]⟩ ∧
    (t.noteQueue 3).records = [.authority 0 .sessionEnd] := by decide +kernel

/-! ## Edges -/

/-- Example 6.9, the edge at cycle E: the stamp, the note, and W1 fired at offset 0. -/
theorem test_accepted_edge :
    let s := withEntry 0x21 1
      ⟨2, 0, .absolute, false, none, none, some ⟨6, .pulse 20⟩, .waiting 3 0⟩
      (owned 2 6 .idle none (cap3 .low none (demo .running)))
    let t := after (.captureEdge (pins [3]) [] true)
      (s.modCap 3 (fun r => { r with subscribers := edit r.subscribers 1 (fun _ => true) }))
    (t.cap 3).last = some ⟨1000, .rise, false⟩ ∧ (t.cap 3).window = some 50 ∧
    (t.noteQueue 1).records = [.capture 3 .rise 1000 false 0] ∧
    (t.line 6).pulse = some 20 ∧ t.slot 0x21 = ⟨2, none⟩ := by decide +kernel
/-- Example 6.9, the edge at E + 20: suppressed. -/
theorem test_suppressed_edge :
    let t := after (.captureEdge (pins [3]) [] true) (cap3 .low (some 30) (demo .running))
    (t.cap 3).suppressed = 1 ∧ (t.cap 3).window = some 29 := by decide +kernel
/-- R98, R102: edges of two lines at one cycle carry one T, that of the advance taken first; the
lines take no second edge on the cycle. -/
theorem test_edges_of_one_cycle :
    let s := (cap3 .low none (demo .running)).modCap 5 (fun r =>
      { r with owner := some 1, edgeSelect := .both, sample := some .low })
    let t := after (.captureEdge (pins [3, 5]) [5] false)
      (after (.timelineAdvance ⟨true, 0⟩) s)
    (t.cap 3).last = some ⟨1001, .rise, false⟩ ∧ (t.cap 5).last = some ⟨1001, .rise, false⟩ ∧
    after (.captureEdge (pins []) [] false) t = t := by decide +kernel

/-! ## Frames -/

/-- R152, R167: notes pending, ATTACHED, holder. -/
theorem test_frame_begin_status_byte :
    ((after (.frameBegin 0) (noted 0 1 (demo .halted))).port 0).receiver = .receiving [] 0x98 := by
  decide +kernel
theorem test_frame_end_abandons :
    ((after (.frameEnd 1) (hearing 1 [0x60, 1, 1] (demo .halted))).port 1).receiver = .idle := by
  decide +kernel
/-- Example 10.8: a length of 30 is BAD_FRAME at the length byte. -/
theorem test_bad_frame_length :
    answerOf 1 (after (.badFrameLength 1 0x30 43 30) (hearing 1 [] (demo .halted))) =
      some (.badFrame, []) := by decide +kernel
/-- R133: a bad check byte renews no lease. -/
theorem test_bad_frame_renews_nothing :
    (after (.badFrame 2 0x60 1 [4] 0) (hearing 2 [] (leased 2 2 1 4464 (demo .halted)))).session 2 =
      ⟨.attached, 0, 2, 1, 4464, .none⟩ := by decide +kernel
/-- Example 10.8: the repeat of a taken FETCH_NOTES leaves the queue alone and sets the replay
flag. -/
theorem test_replay :
    let once := sent 1 .fetchNotes [4] (noted 1 5 (demo .halted))
    let t := after (.replay 1 0x60 1 [4]) (hearing 1 [] once)
    (t.noteQueue 1).records.length = 1 ∧
    (match (t.port 1).receiver with | .answering r _ => r.replay | _ => false) = true := by
  decide +kernel
theorem test_response_shifted_out :
    hsdo (after (.responseShiftedOut 1) (sent 1 .status [] (demo .halted))) 1 = some 0xFF := by
  decide +kernel
/-- R162: an unknown code is BAD_COMMAND in every session state. -/
theorem test_unknown_command :
    answerOf 1 (after (.unknownCommand 1 0x00 1 []) (hearing 1 [] State.reset)) =
      some (.badCommand, []) := by decide +kernel
/-- R168: the four bytes of STATUS, clocked in one by one, are taken at the check byte. -/
theorem test_byte_received :
    answerOf 3 (after (.byteReceived 3 0xE8) (after (.byteReceived 3 0x00)
      (after (.byteReceived 3 0x01) (after (.byteReceived 3 0x02)
        (after (.frameBegin 3) State.reset))))) =
      answerOf 3 (sent 3 .status [] State.reset) := by decide +kernel

/-! ## Session commands -/

/-- R172: the STATUS block after power-on. -/
theorem test_status_after_power_on :
    answerOf 2 (sent 2 .status [] State.reset) =
      some (.ok, [0, 0, 0, 0, 0, 0, 0, 0, 0, 0, 1, 0, 0, 0, 1, 0, 0, 0, 0, 0, 0xFF, 0, 0]) := by
  decide +kernel
/-- Example 8.8: ATTACH with lease 2 after power-on. -/
theorem test_attach :
    let t := sent 2 .attach [0, 2] State.reset
    answerOf 2 t = some (.ok, [0, 1, 0, 2]) ∧ t.session 2 = ⟨.attached, 1, 2, 2, 0, .none⟩ := by
  decide +kernel
theorem test_attach_lease_too_long :
    answerOf 2 (sent 2 .attach [0x10, 0] State.reset) = some (.badArgument, []) := by decide +kernel
/-- R131, R137: DETACH frees the entry and makes the line idle and free. -/
theorem test_detach :
    let t := sent 1 .detach []
      (withEntry 7 2 (oneShot 1 (.armed 5000 0 none)) (owned 1 2 .active none (demo .halted)))
    answerOf 1 t = some (.ok, [1, 0, 0, 1]) ∧ t.slot 7 = ⟨3, none⟩ ∧
    t.line 2 = ⟨none, .low, .idle, none⟩ := by decide +kernel
/-- Example 8.8: a DETACH in DETACHED. -/
theorem test_detach_when_detached :
    answerOf 2 (sent 2 .detach [] State.reset) = some (.notAttached, []) := by decide +kernel

/-! ## Timeline commands -/

theorem test_read_time :
    answerOf 1 (sent 1 .readTime []
      { demo .halted with timeline := ⟨1042, .halted, some ⟨1, 3, 16, 8⟩⟩ }) =
      some (.ok, [0, 0, 0, 0, 0x04, 0x12, 2, 1, 0, 0, 0, 1, 0, 16, 0, 8]) := by decide +kernel
/-- Example 2.8: the START fires A, then C, whose SET cuts A's pulse. -/
theorem test_start_fires_late_entries :
    let t := sent 0 .start []
      (withEntry 9 0
        ⟨1, 0, .relative, true, none, none, some ⟨2, .set⟩, .armed 1000 9 none⟩
        (withEntry 3 5
          ⟨1, 0, .absolute, true, none, none, some ⟨2, .pulse 100⟩, .armed 990 7 (some .past)⟩
          (owned 1 2 .idle none (demo .halted))))
    (t.noteQueue 1).records =
      [.fired 0x0305 0 990 1000 .past 0 true, .fired 0x0900 0 1000 1000 .onTime 0 true,
        .timeline .start 1000 1000] ∧
    t.line 2 = ⟨some 1, .low, .active, none⟩ ∧ t.slot 3 = ⟨6, none⟩ := by decide +kernel
theorem test_halt :
    let t := sent 0 .halt [] (demo .running)
    t.timeline = ⟨1000, .halted, none⟩ ∧
    (t.noteQueue 2).records = [.timeline .halt 1000 1000] := by decide +kernel
/-- Example 1.9, second sequence: the SLEW_CUT note stands before the STEP note. -/
theorem test_step_cuts_slew :
    let t := sent 0 .step [1, 0, 0, 0, 0, 0x03, 0xE8]
      { demo .running with timeline := ⟨5149, .running, some ⟨-1, -2, 100, 50⟩⟩ }
    t.timeline = ⟨6149, .running, none⟩ ∧
    (t.noteQueue 1).records =
      [.timeline .slewCut 5149 (-1), .timeline .step 5149 6149] := by decide +kernel
/-- R9: an OFFSET of −2^47 is RANGE. -/
theorem test_step_range :
    answerOf 0 (sent 0 .step [1, 0x80, 0, 0, 0, 0, 0] (demo .running)) = some (.range, []) := by
  decide +kernel
theorem test_slew_installs :
    (sent 0 .slew [0, 0, 0, 3, 0, 16] (demo .running)).timeline =
      ⟨1000, .running, some ⟨3, 3, 16, 0⟩⟩ := by decide +kernel
theorem test_slew_spacing_15 :
    answerOf 0 (sent 0 .slew [0, 0, 0, 3, 0, 15] (demo .running)) = some (.badArgument, []) := by
  decide +kernel

/-! ## The authority and the pool -/

theorem test_claim_authority_waits :
    answerOf 2 (sent 2 .claimAuthority [] (demo .halted)) = some (.pending, [0, 1]) := by
  decide +kernel
/-- R145: the token passes to the head of the list with a note. -/
theorem test_release_authority :
    let t := sent 0 .releaseAuthority [] { demo .halted with authority := ⟨some 0, [2, 3]⟩ }
    t.authority = ⟨some 2, [3]⟩ ∧ answerOf 0 t = some (.ok, [0, 2]) ∧
    (t.noteQueue 2).records = [.authority 0 .release] := by decide +kernel
/-- Example 4.8: reserves 0, 64, 120 and 32 are refused while port 0 uses 91 slots. -/
theorem test_set_reserves_conflict :
    answerOf 0 (sent 0 .setReserves [0, 0, 0, 64, 0, 120, 0, 32]
      (((demo .halted).modQuota 0 (fun q => { q with usage := 91 })).modQuota 1
        (fun q => { q with usage := 69 }))) = some (.quotaConflict, []) := by decide +kernel
theorem test_set_ceiling :
    ((sent 0 .setCeiling [2, 0, 5] (demo .halted)).quota 2).ceiling = 5 := by decide +kernel
theorem test_guarded_without_token :
    answerOf 1 (sent 1 .setCeiling [2, 0, 5] (demo .halted)) = some (.notAuthority, []) := by
  decide +kernel

/-! ## Entry commands -/

/-- Example 3.11: ARM AT 10,500 in slot 7 with generation 2; here slot 0. -/
theorem test_arm :
    let t := sent 1 .arm [0, 0, 0x02, 0, 0, 0, 0, 0x29, 0x04]
      ((demo .running).modSlot 0 (fun _ => ⟨2, none⟩))
    answerOf 1 t = some (.ok, [0x00, 0x02, 0, 0, 0, 0, 0x29, 0x04]) ∧
    t.slot 0 = ⟨2, some (oneShot 1 (.armed 10500 0 none))⟩ ∧ t.queue = [0] := by decide +kernel
/-- R53: basis AFTER with offset 0 fires ON_TIME at the take while RUNNING. -/
theorem test_arm_fires_at_take :
    let t := sent 1 .arm [0, 9, 0x0A, 0, 0, 0, 0, 0, 0] (demo .running)
    (t.noteQueue 1).records = [.fired 0x0000 9 1000 1000 .onTime 0 true] ∧
    t.slot 0 = ⟨1, none⟩ := by decide +kernel
theorem test_arm_on_capture :
    let t := sent 2 .armOnCapture [0, 0, 0x02, 3, 0, 0, 1, 0xF4] (demo .running)
    answerOf 2 t = some (.ok, [0, 0]) ∧ (t.cap 3).waiting = [0] ∧
    t.slot 0 = ⟨0, some (oneShot 2 (.waiting 3 500))⟩ := by decide +kernel
theorem test_modify :
    let t := sent 1 .modify [7, 2, 0x08, 0, 0, 0, 0, 0, 80]
      { withEntry 7 2 (oneShot 1 (.armed 5000 0 none)) (demo .running) with armSeq := 121 }
    answerOf 1 t = some (.ok, [0, 0, 0, 0, 0x04, 0x38]) ∧
    t.slot 7 = ⟨2, some (oneShot 1 (.armed 1080 121 none))⟩ := by decide +kernel
/-- Example 3.12: PAUSE 400 ticks ahead of the due. -/
theorem test_pause :
    let t := sent 3 .pause [0x0C, 0x05]
      (withEntry 12 5 (oneShot 3 (.armed 1400 40 none)) (demo .halted))
    answerOf 3 t = some (.ok, [0, 0, 0, 0, 0x01, 0x90]) ∧
    t.slot 12 = ⟨5, some (oneShot 3 (.paused 400 none))⟩ ∧ t.queue = [] := by decide +kernel
/-- Example 3.12: RESUME 400 ticks ahead of the new T. -/
theorem test_resume :
    let t := sent 3 .resume [0x0C, 0x05]
      { withEntry 12 5 (oneShot 3 (.paused 400 none)) (demo .halted) with armSeq := 42 }
    t.slot 12 = ⟨5, some (oneShot 3 (.armed 1400 42 none))⟩ := by decide +kernel
/-- Example 3.11: a CANCEL of a freed slot is STALE, and one of a live entry frees it. -/
theorem test_cancel :
    let s := withEntry 7 3 (oneShot 2 (.armed 5000 0 none)) (demo .running)
    answerOf 2 (sent 2 .cancel [7, 3] s) = some (.ok, [1]) ∧
    (sent 2 .cancel [7, 3] s).slot 7 = ⟨4, none⟩ ∧
    answerOf 1 (sent 1 .cancel [7, 2] s) = some (.stale, []) ∧
    answerOf 1 (sent 1 .cancel [7, 3] s) = some (.notOwner, []) := by decide +kernel
theorem test_query_entry :
    answerOf 2 (sent 2 .queryEntry [7, 3]
      (withEntry 7 3
        ⟨2, 5, .relative, true, some 100, some 2, some ⟨4, .pulse 9⟩, .armed 10600 121 none⟩
        (demo .halted))) =
      some (.ok, [7, 3, 1, 0x73, 0, 5, 0, 0, 0, 0, 0x29, 0x68, 0, 0, 0, 121, 0, 0, 0, 0, 0, 0, 0,
        0, 0, 0, 0, 0, 0, 0, 100, 0, 2, 4, 3, 0, 9, 0]) := by decide +kernel
theorem test_list_entries :
    answerOf 2 (sent 2 .listEntries [1]
      (withEntry 0xFF 1 (oneShot 2 (.paused 4 none))
        (withEntry 5 0 (oneShot 1 (.paused 4 none))
          (withEntry 0 0 (oneShot 2 (.paused 4 none)) (demo .halted))))) =
      some (.ok, [1, 0, 0xFF, 1, 3]) := by decide +kernel

/-! ## Trigger lines -/

theorem test_claim_line :
    let t := sent 1 .claimLine [15, 1] (demo .halted)
    t.line 15 = ⟨some 1, .high, .idle, none⟩ ∧ trgPin t 15 = .high ∧
    answerOf 1 t = some (.ok, [1, 1]) := by decide +kernel
theorem test_release_line_in_use :
    answerOf 1 (sent 1 .releaseLine [2]
      (withEntry 3 0 ⟨1, 0, .absolute, false, none, none, some ⟨2, .set⟩, .paused 4 none⟩
        (owned 1 2 .idle none (demo .halted)))) = some (.inUse, []) := by decide +kernel
/-- R87: a PULSE never shortens a pulse in flight. -/
theorem test_drive_line_pulse :
    ((sent 1 .driveLine [2, 3, 0, 5] (owned 1 2 .active (some 9) (demo .halted))).line 2).pulse =
      some 9 ∧
    ((sent 1 .driveLine [2, 3, 0, 12] (owned 1 2 .active (some 9) (demo .halted))).line 2).pulse =
      some 12 := by decide +kernel
theorem test_read_lines :
    answerOf 1 (sent 1 .readLines [] (owned 1 0 .active (some 0x102) State.reset)) =
      some (.ok, [1, 2, 1, 2] ++ (List.replicate 15 [0xFF, 0, 0, 0]).flatten) := by decide +kernel

/-! ## Capture lines -/

theorem test_claim_capture :
    answerOf 1 (sent 1 .claimCapture [7] (demo .halted)) = some (.ok, [1, 0, 0, 0, 0]) := by
  decide +kernel
theorem test_release_capture :
    let t := sent 1 .releaseCapture [3] (cap3 .low (some 9) (demo .halted))
    (t.cap 3).window = none ∧ (t.cap 3).owner = none ∧ (t.cap 3).edgeSelect = .off := by
  decide +kernel
/-- R108: a window that is open keeps the cycles it has left. -/
theorem test_configure_capture :
    let t := sent 1 .configureCapture [3, 1, 0, 60, 1] (cap3 .low (some 9) (demo .halted))
    (t.cap 3).holdoff = 60 ∧ answerOf 1 t = some (.ok, [1, 0, 60, 1, 0, 9]) := by decide +kernel
theorem test_subscribe :
    let t := sent 2 .subscribe [3] (demo .halted)
    answerOf 2 t = some (.ok, [0]) ∧ peek (t.cap 3).subscribers 2 = true := by decide +kernel
theorem test_unsubscribe :
    let t := sent 2 .subscribe [3] (demo .halted)
    answerOf 2 (after (.unsubscribe 2 2 [3]) (hearing 2 [] t)) = some (.ok, [1]) := by
  decide +kernel
/-- Example 6.9, the READ_CAPTURE at T = 70,080. -/
theorem test_read_capture :
    answerOf 1 (sent 1 .readCapture [3] ((demo .running).modCap 3 (fun r =>
      { r with
        owner := some 1, edgeSelect := .rise, holdoff := 50, mode := .oldest, window := some 30,
        last := some ⟨70060, .rise, false⟩,
        subscribers := edit r.subscribers 1 (fun _ => true) }))) =
      some (.ok, [1, 1, 0, 50, 1, 0, 30, 0, 0x80, 0, 0, 0, 1, 0x11, 0xAC, 0, 0, 2]) := by
  decide +kernel

/-! ## Notes -/

/-- R121, first row: the fetch taken first leaves 29 and the note then makes 30. -/
theorem test_fetch_notes :
    let t := sent 1 .fetchNotes [2] (noted 1 31 (demo .halted))
    (t.noteQueue 1).records.length = 29 ∧
    ((sendNote 1 (.authority 0 .release) t).noteQueue 1).records.length = 30 := by decide +kernel
/-- R121, second row: a note that finds a LOSS record of 5 at the tail of 32 makes it 6. -/
theorem test_note_counted_as_lost :
    arriveRecords (.authority 0 .release)
      (List.replicate 31 (.authority 0 .release) ++ [.loss 5]) =
      List.replicate 31 (.authority 0 .release) ++ [.loss 6] := by decide
theorem test_set_attention :
    let t := sent 1 .setAttention [1] (noted 1 3 (demo .halted))
    answerOf 1 t = some (.ok, [0, 3]) ∧ attnPin t 1 = .low := by decide +kernel

/-! ## Witnesses

For each statement with hypotheses, states and operands that meet them together; for one with
clauses over an argument, arguments at the bounds of each clause with the status each answers. -/

/-- A command is taken with each of these arguments, in these session states, and answers these
statuses. -/
def takes (p : Port) (c : Command) (st : SessionState) (s : State)
    (cases : List (List Byte × Status)) : Bool :=
  cases.all (fun x =>
    decide (IsTake p c 1 x.1 (hearing p [] s)) && (s.session p).state == st &&
      (answerOf p (sent p c x.1 s)).map Prod.fst == some x.2)

/-- An entry command's line action, as its three bytes' worth. -/
def request (flags : EntryRequest → EntryRequest) : EntryRequest :=
  flags ⟨.absolute, true, false, false, false, none, none, none⟩

/-- One entry of port 1, with no options, in slot 7 with generation 2. -/
def one (place : Place) (tl : TimelineState) : State :=
  withEntry 7 2 (oneShot 1 place) (demo tl)

/-- Every port has a ceiling of its usage, so that no slot is granted. -/
def full (s : State) : State := s.modQuota 1 (fun q => { q with ceiling := 0 })

/-- No slot of the store is FREE: all are port 2's, PAUSED. -/
def noneFree (s : State) : State :=
  { s.modQuota 2 (fun q => { q with usage := 256 }) with
    slots := Vector.replicate 256 ⟨0, some (oneShot 2 (.paused 4 none))⟩ }

theorem test_witness_EveryCommandAnswers :
    [Instr.powerOn, .badFrameLength 0 0 0 25, .status 0 0 (List.replicate 24 0)].all
      Instr.wellFormed = true := by decide +kernel
theorem test_witness_ResetPinRestoresTheDevice :
    (demo .running).rstN = .high ∧ (after .deviceReset (demo .running)).rstN = .low := by
  decide +kernel
/-- A stopped timeline, and a RUNNING one whose slew is two cycles from due and whose next due is two
ticks ahead; a lease on its last cycle is held back. -/
theorem test_witness_CycleCountsAndAdvances :
    let held : Held := ⟨true, 2⟩
    let h := leased 1 1 1 65535 (demo .halted)
    let r := withEntry 3 0 (oneShot 1 (.armed 1002 0 none))
      { demo .running with timeline := ⟨1000, .running, some ⟨3, 3, 16, 14⟩⟩ }
    h.rstN = .high ∧ CountsInStep h ∧ NoLeaseRunsOut held h ∧ h.timeline.state ≠ .running ∧
    r.rstN = .high ∧ CountsInStep r ∧ NoLeaseRunsOut Held.nothing r ∧
    r.timeline.state = .running ∧
    (∀ x ∈ r.timeline.slew, x.count.toNat + 1 < x.spacing.toNat) ∧
    (∀ i ∈ r.queue, 0 < distance (r.t + 1) (r.due i)) := by decide +kernel
/-- Two entries, of which the advance reaches one, with no slew and with one that is not yet due. -/
theorem test_witness_AdvanceFiresTheReached :
    ∀ slew ∈ ([none, some ⟨-2, -2, 100, 12⟩] : List (Option Slew)),
      let s := withEntry 3 0 (oneShot 1 (.armed 1001 0 none))
        (withEntry 4 0 (oneShot 1 (.armed 1002 0 none))
          { demo .running with timeline := ⟨1000, .running, slew⟩ })
      s.rstN = .high ∧ CountsInStep s ∧ NoLeaseRunsOut Held.nothing s ∧
      s.timeline.state = .running ∧
      (∀ r ∈ s.timeline.slew, r.count.toNat + 1 < r.spacing.toNat) ∧ DeadlinesFit s ∧
      s.queue.filter (fun i => s.due i == s.t + 1) = [3] := by decide +kernel
/-- A positive slew with one tick to apply, an entry at each of the two ticks of its advance, and a
negative one with more to apply. -/
theorem test_witness_SlewCycleApplies :
    ∀ r ∈ ([⟨1, 3, 16, 15⟩, ⟨-2, -2, 65535, 65534⟩] : List Slew),
      let s := withEntry 3 0 (oneShot 1 (.armed 1002 0 none))
        (withEntry 4 0 (oneShot 1 (.armed 1001 0 none))
          { demo .running with timeline := ⟨1000, .running, some r⟩ })
      s.rstN = .high ∧ CountsInStep s ∧ NoLeaseRunsOut Held.nothing s ∧
      s.timeline.state = .running ∧ s.timeline.slew = some r ∧ r.Fits ∧
      r.count.toNat + 1 = r.spacing.toNat ∧ DeadlinesFit s := by decide +kernel
theorem test_witness_PulseExpiresAndWindowCloses :
    let s := owned 2 6 .active (some 1) (cap3 .low (some 1) (demo .halted))
    s.rstN = .high ∧ CountsInStep s ∧ NoLeaseRunsOut Held.nothing s ∧
    (s.line 6).pulse = some 1 ∧ (∀ i ∈ s.queue, s.firedOp 6 i = none) ∧
    (s.cap 3).window = some 1 ∧ s.captureTurn ≠ .ahead := by decide +kernel
/-- An expiry, a boundary with two units left, and a count before a boundary. -/
theorem test_witness_LeaseBoundaryAndExpiry :
    let e := leased 2 2 1 65535 (demo .halted)
    let b := leased 2 2 2 65535 (demo .halted)
    let c := leased 2 2 1 65534 (demo .halted)
    (∀ s ∈ [e, b, c], s.rstN = .high ∧ (s.port 2).turn = .inStep ∧ AuthorityFits s) ∧
    (e.session 2).Expiring ∧ ¬ (b.session 2).Expiring ∧ (b.session 2).Counted ∧
    (b.session 2).unitPhase = 65535 ∧ (c.session 2).unitPhase ≠ 65535 := by decide +kernel
/-- A window of two cycles is open at the edge, and nothing is accepted; a fall is no selected edge;
an event the last cycle did not hold back; a pin while RST_N is low. -/
theorem test_witness_EdgeNotAccepted :
    let s := cap3 .low (some 2) (demo .running)
    CanSample true s ∧ ShowsSelected (s.cap 3) (peek (pins [3]) 3) ∧
    (∀ c : CaptureId, ¬ Accepts (s.cap c) (peek (pins [3]) c)) ∧
    ¬ ShowsSelected ((cap3 .high none (demo .running)).cap 3) .low ∧
    s.rstN = .high ∧ ¬ CanSample false s ∧ (after .deviceReset s).rstN = .low := by decide +kernel
/-- Two lines that accept at one event, line 3 on the last cycle of its window with an entry waiting
while the timeline is HALTED, and before it line 5. -/
def twoEdges : State :=
  withEntry 0x21 1 (oneShot 2 (.waiting 3 0))
    ((cap3 .low (some 1) (demo .halted)).modCap 5 (fun r =>
      { r with owner := some 1, edgeSelect := .both, sample := some .low }))

theorem test_witness_EdgeAccepted :
    CanSample true twoEdges ∧ Placed twoEdges ∧ Accepts (twoEdges.cap 5) (peek (pins [3, 5]) 5) ∧
    (∀ d : CaptureId, TakenBefore [5, 3] 3 d →
      ¬ Accepts (twoEdges.cap d) (peek (pins [3, 5]) d)) := by decide +kernel
theorem test_witness_EdgeAccepted_line :
    EdgeFrom (twoEdges.cap 3).sample (peek (pins [3, 5]) 3) .rise ∧
    Selected (twoEdges.cap 3).edgeSelect .rise ∧ oneLess (twoEdges.cap 3).window = none ∧
    (twoEdges.cap 3).waiting = [0x21] := by decide +kernel
/-- A RUNNING timeline, a slew in progress and a lease counted on another port. -/
theorem test_witness_PulseLastsItsWidth :
    let s := leased 1 5 5 0 (owned 2 6 .active (some 1)
      { demo .running with timeline := ⟨1000, .running, some ⟨2, 3, 16, 15⟩⟩ })
    s.rstN = .high ∧ (∀ i : SlotId, s.firedOp 6 i = none) ∧
    (∀ p : Port, (s.line 6).owner = some p → ¬ (s.session p).Counted) ∧
    (s.line 6).level = .active ∧ (s.line 6).pulse = some 1 := by decide +kernel
theorem test_witness_LeaseRunsOut :
    let s := leased 2 1 1 0 (demo .running)
    s.rstN = .high ∧ (s.port 2).turn = .inStep ∧ (s.session 2).Counted ∧
    (s.session 2).leaseRemaining = (s.session 2).leasePeriod ∧ (s.session 2).unitPhase = 0 ∧
    65536 ≤ (s.session 2).leasePeriod.toNat * 65536 := by decide +kernel
theorem test_witness_SlewSpacing :
    let r : Slew := ⟨3, 3, 16, 0⟩
    let s : State := { demo .running with timeline := ⟨1000, .running, some r⟩ }
    s.rstN = .high ∧ s.timeline.state = .running ∧ s.timeline.slew = some r ∧ r.Fits ∧
    r.count = 0 ∧ 16 ≤ r.spacing.toNat := by decide +kernel
theorem test_witness_BytesBuildTheFrame :
    (demo .running).rstN = .high ∧ (List.replicate 24 (0 : Byte)).length ≤ 24 ∧
    ((hearing 1 [] (demo .running)).port 1).receiver = .receiving [] 0 := by decide +kernel
theorem test_witness_SelectBeginsAndEndsFrames :
    ((demo .running).port 1).select = .high ∧
    ((hearing 1 [] (demo .running)).port 1).select = .low := by decide +kernel
/-- A length of 25 and a wrong check byte. -/
theorem test_witness_FramingErrorsChangeNothing :
    let s := hearing 1 [] (demo .running)
    s.rstN = .high ∧ 25 ≤ (25 : Byte).toNat ∧
    (s.port 1).receiver.holdsStartOf [0x02, 1] = true ∧ Reads 1 0x02 1 [] s ∧
    (0xE9 : Byte) ≠ checkByte (envelope 0x02 1 []) := by decide +kernel
/-- The repeat of a FETCH_NOTES that was taken, by its own row. -/
theorem test_witness_ReplaySendsTheStoredResponse :
    let s := hearing 1 [] (sent 1 .fetchNotes [4] (noted 1 5 (demo .halted)))
    Reads 1 0x60 1 [4] s ∧ IsReplay 1 1 (checkByte (envelope 0x60 1 [4])) s ∧
    (s.port 1).replay.stored.isSome = true ∧ Command.fetchNotes.code = 0x60 := by decide +kernel
/-- The last byte of a response and one before it; the idle and draining receivers. -/
theorem test_witness_ResponseIsShiftedOut :
    let r : Response := ⟨.ok, false, false, false, []⟩
    let at' : Receiver → State := fun x => (demo .halted).modPort 1 (fun e => { e with receiver := x })
    (∀ n ∈ [0, 3],
      ((at' (.answering r n)).port 1).receiver = .answering r n ∧ n < r.data.length + 4) ∧
    (at' .idle).rstN = .high ∧ ((at' .idle).port 1).receiver = .idle ∧
    ((at' .draining).port 1).receiver = .draining := by decide +kernel
theorem test_witness_CheckByteDecidesTheFrame :
    let s := hearing 1 (envelope 0x02 1 []) (demo .halted)
    s.rstN = .high ∧ (s.port 1).receiver = .receiving (envelope 0x02 1 []) 0 ∧
    (0xE8 : Byte) = checkByte (envelope 0x02 1 []) ∧ Command.status.code = 0x02 := by decide +kernel
theorem test_witness_UnknownAndMisfitCommandsAreRefused :
    let s := hearing 1 [] (demo .halted)
    Reads 1 0x01 1 [] s ∧
    ¬ IsReplay 1 1 (checkByte (envelope 0x01 1 [])) s ∧
    (∀ args ∈ [[0, 0], [0, 0, 0x10, 0, 0, 0, 0, 0, 0, 0, 0, 0]],
      IsTake 1 .arm 1 args s ∧ ¬ Command.arm.LengthRight args) := by decide +kernel
/-- A DETACHED port, an EXPIRED one, and an ATTACHED one without the token. -/
theorem test_witness_AdmissionAndAuthority :
    takes 1 .detach .detached State.reset [([], .notAttached)] = true ∧
    takes 1 .fetchNotes .expired (inState 1 .expired (demo .halted)) [([1], .expired)] = true ∧
    takes 1 .halt .attached (demo .running) [([], .notAuthority)] = true ∧
    Command.halt.LengthRight [] := by decide +kernel
/-- STATUS, READ_TIME and READ_LINES in every session state. -/
theorem test_witness_reads :
    ∀ c ∈ [Command.status, .readTime, .readLines], ∀ st ∈ [SessionState.detached, .attached, .expired],
      takes 1 c st (inState 1 st (demo .halted)) [([], .ok)] = true := by decide +kernel
/-- Leases 4,095 and 4,096, and 0. -/
theorem test_witness_AttachBeginsOrRenews :
    ∀ st ∈ [SessionState.detached, .attached, .expired],
      takes 1 .attach st (inState 1 st (demo .halted))
        [(be16 4095, .ok), (be16 4096, .badArgument), (be16 0, .ok)] = true := by decide +kernel
theorem test_witness_DetachEndsTheSession :
    takes 1 .detach .attached (demo .halted) [([], .ok)] = true ∧
    takes 1 .detach .expired (inState 1 .expired (demo .halted)) [([], .ok)] = true ∧
    AuthorityFits (demo .halted) := by decide +kernel
/-- Two late entries of a HALTED timeline, in queue order. -/
theorem test_witness_StartAndHalt :
    let s := withEntry 9 0 (oneShot 1 (.armed 1000 9 none))
      (withEntry 3 5 (oneShot 1 (.armed 990 7 (some .past))) (demo .halted))
    Placed s ∧ InQueueOrder [3, 9] (fun i => distance s.t (s.due i) ≤ 0) s ∧
    takes 0 .start .attached s [([], .ok)] = true ∧
    takes 0 .start .attached (demo .running) [([], .wrongState)] = true ∧
    takes 0 .halt .attached (demo .running) [([], .ok)] = true ∧
    takes 0 .halt .attached s [([], .wrongState)] = true ∧ s.authority.holder = some 0 := by
  decide +kernel
/-- Forms 1 and 2, and amounts of H − 1 and H; an ABSOLUTE entry at the edge of the horizon. -/
theorem test_witness_StepMovesTheTimeline :
    takes 0 .step .attached (demo .running)
      [(1 :: be48 70368744177663, .ok), (1 :: be48 70368744177664, .range),
        (1 :: be48 (-70368744177664), .range), (0 :: be48 1000, .ok),
        (2 :: be48 0, .badArgument)] = true ∧
    takes 0 .step .attached (one (.armed 2000 0 none) .running)
      [(1 :: be48 (-70368744176663), .ok), (1 :: be48 (-70368744176664), .range)] = true := by
  decide +kernel
/-- A step by 1,000 that makes an ABSOLUTE entry reached in a RUNNING timeline. -/
theorem test_witness_StepMovesTheTimeline_order :
    let s := one (.armed 2000 0 none) .running
    let u : State := { s with timeline := ⟨2000, .running, none⟩ }
    Placed s ∧ takes 0 .step .attached s [(1 :: be48 1000, .ok)] = true ∧
    InQueueOrder [7] (fun i => decide (distance u.t (u.due i) ≤ 0)) u := by decide +kernel
/-- Spacings 15 and 16, and the least amount. -/
theorem test_witness_SlewInstallsAndCuts :
    takes 0 .slew .attached (demo .running)
      [(be32 3 ++ be16 16, .ok), (be32 3 ++ be16 15, .badArgument), (be32 0 ++ be16 15, .ok),
        (be32 (BitVec.intMin 32) ++ be16 16, .badArgument),
        (be32 (BitVec.intMin 32 + 1) ++ be16 16, .ok)] = true := by decide +kernel
/-- A free token, the holder, a waiter and a new waiter; releases by each. -/
theorem test_witness_authority_commands :
    let s : State := { demo .halted with authority := ⟨some 0, [3]⟩ }
    takes 1 .claimAuthority .attached { s with authority := ⟨none, []⟩ } [([], .ok)] = true ∧
    takes 0 .claimAuthority .attached s [([], .ok)] = true ∧
    takes 3 .claimAuthority .attached s [([], .pending)] = true ∧
    takes 1 .claimAuthority .attached s [([], .pending)] = true ∧
    takes 0 .releaseAuthority .attached s [([], .ok)] = true ∧
    takes 3 .releaseAuthority .attached s [([], .ok)] = true ∧
    takes 1 .releaseAuthority .attached s [([], .wrongState)] = true := by decide +kernel
/-- Reserves of 256 and 257 in all; ports 3 and 4, ceilings 256, 257 and below the reserve. -/
theorem test_witness_ReservesAndCeilings :
    takes 0 .setReserves .attached (demo .halted)
      [(be16 256 ++ be16 0 ++ be16 0 ++ be16 0, .ok),
        (be16 256 ++ be16 1 ++ be16 0 ++ be16 0, .quotaConflict)] = true ∧
    takes 0 .setCeiling .attached ((demo .halted).modQuota 3 (fun q => { q with reserve := 5 }))
      [(3 :: be16 256, .ok), (3 :: be16 257, .badArgument), (4 :: be16 256, .badArgument),
        (3 :: be16 5, .ok), (3 :: be16 4, .quotaConflict)] = true := by decide +kernel
/-- A FREE slot, another generation, another port's entry, and each state a command refuses. -/
theorem test_witness_HandleChecks :
    let armed := one (.armed 2000 0 none) .running
    let waiting := one (.waiting 3 0) .running
    let paused := one (.paused 4 none) .running
    takes 1 .cancel .attached armed [([7, 2], .ok), ([7, 3], .stale), ([8, 0], .stale)] = true ∧
    takes 2 .cancel .attached armed [([7, 2], .notOwner)] = true ∧
    takes 1 .pause .attached waiting [([7, 2], .wrongState)] = true ∧
    takes 1 .pause .attached paused [([7, 2], .wrongState)] = true ∧
    takes 1 .resume .attached armed [([7, 2], .wrongState)] = true ∧
    takes 1 .resume .attached waiting [([7, 2], .wrongState)] = true ∧
    takes 1 .modify .attached paused [([7, 2, 0] ++ be48 2000, .wrongState)] = true ∧
    Command.cancel.LengthRight [7, 2] := by decide +kernel
/-- Each refusal of ARM and its success, in a store that obeys the laws, and the two refusals of one
with no FREE slot. -/
theorem test_witness_ArmJoinsTheQueue :
    let s := owned 2 6 .idle none (demo .halted)
    let args : Tick → (EntryRequest → EntryRequest) → List Byte :=
      fun v f => armArgs 9 v (request f)
    AllocationFits s ∧ Placed s ∧
    takes 1 .arm .attached (noneFree s) [(args 2000 id, .noSlot)] = true ∧
    takes 2 .arm .attached (noneFree s) [(args 2000 id, .overCeiling)] = true ∧
    takes 1 .arm .attached s
      [(args 999 id, .ok), (args 2000 (fun r => { r with count := some 2 }), .badArgument),
        (args 2000 (fun r => { r with notify := false }), .badArgument),
        (args 2000 (fun r => { r with line := some (16, 0, 0) }), .badArgument),
        (args 2000 (fun r => { r with line := some (6, 0, 0) }), .notOwner),
        (args 70368744178663 id, .ok), (args 70368744178664 id, .range),
        (args 70368744177664 (fun r => { r with after := true }), .range),
        (args 999 (fun r => { r with refuseIfPast := true }), .past),
        (args 1000 (fun r => { r with refuseIfPast := true, unread := true }), .ok)] = true ∧
    takes 1 .arm .attached (full s) [(args 2000 id, .overCeiling)] = true ∧
    takes 1 .arm .attached (s.modQuota 2 (fun q => { q with reserve := 256 }))
      [(args 2000 id, .noSlot)] = true := by decide +kernel
/-- A due at T and one before it. -/
theorem test_witness_ArmFiresAtOnce :
    let s := demo .running
    let r := request id
    LowestFree 0 s ∧ 0 ∉ s.queue ∧ s.timeline.state = .running ∧
    (∀ n ∈ [1000, 999],
      let v : Tick := BitVec.ofNat 48 n
      distance s.t (r.due v s.t) ≤ 0 ∧ ¬ r.OutsideHorizon v s.t ∧ ¬ r.RefusedPast v s.t) ∧
    ¬ r.Bad ∧ ¬ r.NamesOthersLine 1 s ∧ (s.quota 1).usage < (s.quota 1).ceiling ∧ HasRoom 1 s ∧
    r.period = none ∧ takes 1 .arm .attached s [(armArgs 9 1000 r, .ok), (armArgs 9 999 r, .ok)] := by
  decide +kernel
/-- Lines 7 and 8, a line action that is not the port's, and a store with no slot for it. -/
theorem test_witness_ArmOnCaptureWaits :
    let s := demo .running
    let args : Byte → (EntryRequest → EntryRequest) → List Byte :=
      fun l f => armOnCaptureArgs 9 l 500 (request f)
    AllocationFits s ∧
    takes 1 .armOnCapture .attached (noneFree s) [(args 7 id, .noSlot)] = true ∧
    takes 2 .armOnCapture .attached (noneFree s) [(args 7 id, .overCeiling)] = true ∧
    takes 1 .armOnCapture .attached s
      [(args 7 id, .ok), (args 8 id, .badArgument),
        (args 7 (fun r => { r with period := some 0 }), .badArgument),
        (args 7 (fun r => { r with line := some (15, 3, 1) }), .notOwner)] = true ∧
    takes 1 .armOnCapture .attached (full s) [(args 7 id, .overCeiling)] = true ∧
    takes 1 .armOnCapture .attached (s.modQuota 2 (fun q => { q with reserve := 256 }))
      [(args 7 id, .noSlot)] = true := by decide +kernel
theorem test_witness_ModifyMovesTheEntry :
    let s := one (.armed 2000 0 none) .halted
    let args : Tick → (EntryRequest → EntryRequest) → List Byte :=
      fun v f => modifyArgs 0x0702 v (request f)
    NamesOwn 1 0x0702 7 (oneShot 1 (.armed 2000 0 none)) s ∧
    takes 1 .modify .attached s
      [(args 1500 id, .ok), (args 1500 (fun r => { r with count := some 2 }), .badArgument),
        (args 1500 (fun r => { r with period := some 0 }), .badArgument),
        (args 1500 (fun r => { r with period := some 1, count := some 2 }), .ok),
        (args 70368744178664 id, .range),
        (args 999 (fun r => { r with refuseIfPast := true }), .past)] = true := by decide +kernel
theorem test_witness_PauseAndResume :
    let a := one (.armed 2000 0 none) .running
    let b := one (.paused 1 none) .running
    NamesOwn 1 0x0702 7 (oneShot 1 (.armed 2000 0 none)) a ∧
    takes 1 .pause .attached a [(be16 0x0702, .ok)] = true ∧
    NamesOwn 1 0x0702 7 (oneShot 1 (.paused 1 none)) b ∧ 7 ∉ b.queue ∧ 0 ≤ (1 : Tick).toInt ∧
    takes 1 .resume .attached b [(be16 0x0702, .ok)] = true := by decide +kernel
theorem test_witness_CancelFreesTheEntry :
    let s := one (.waiting 3 5) .running
    NamesOwn 1 0x0702 7 (oneShot 1 (.waiting 3 5)) s ∧ Placed s ∧
    takes 1 .cancel .attached s [(be16 0x0702, .ok)] = true := by decide +kernel
theorem test_witness_EntriesAreRead :
    let s := one (.paused 4 none) .running
    NamesOwn 1 0x0702 7 (oneShot 1 (.paused 4 none)) s ∧
    takes 1 .queryEntry .attached s [(be16 0x0702, .ok)] = true ∧
    takes 1 .listEntries .attached s [([0], .ok), ([255], .ok)] = true := by decide +kernel
/-- Lines 15 and 16, idle levels 1 and 2, another port's line, an unowned one, one in use. -/
theorem test_witness_LinesAreClaimedAndReleased :
    let s := owned 2 6 .idle none (owned 1 15 .idle none (demo .halted))
    let used := withEntry 3 0 ⟨1, 0, .absolute, true, none, none, some ⟨15, .set⟩, .paused 4 none⟩ s
    takes 1 .claimLine .attached s
      [([15, 1], .ok), ([14, 0], .ok), ([16, 0], .badArgument), ([15, 2], .badArgument),
        ([6, 0], .owned)] = true ∧
    takes 1 .releaseLine .attached s
      [([15], .ok), ([16], .badArgument), ([6], .notOwner), ([14], .notOwner)] = true ∧
    takes 1 .releaseLine .attached used [([15], .inUse)] = true := by decide +kernel
/-- Operations 0 to 4, widths 0 and 1, lines 15 and 16, another port's line. -/
theorem test_witness_DriveLineFollowsTheTable :
    takes 1 .driveLine .attached (owned 2 6 .idle none (owned 1 15 .idle none (demo .halted)))
      [([15, 0] ++ be16 0, .ok), ([15, 1] ++ be16 0, .ok), ([15, 2] ++ be16 0, .ok),
        ([15, 3] ++ be16 1, .ok), ([15, 3] ++ be16 0, .badArgument),
        ([15, 4] ++ be16 1, .badArgument), ([16, 0] ++ be16 0, .badArgument),
        ([6, 0] ++ be16 0, .notOwner)] = true := by decide +kernel
/-- Lines 7 and 8, edge selects 3 and 4, modes 1 and 2, another port's line. -/
theorem test_witness_CaptureLinesAreOwned :
    let s := (demo .halted).modCap 7 (fun r => { r with owner := some 1 })
    takes 1 .claimCapture .attached (cap3 .low none s) [([7], .ok), ([6], .ok), ([8], .badArgument)] ∧
    takes 2 .claimCapture .attached s [([7], .owned)] ∧
    takes 1 .releaseCapture .attached s [([7], .ok), ([8], .badArgument), ([6], .notOwner)] ∧
    takes 1 .configureCapture .attached s
      [([7, 3] ++ be16 0 ++ [1], .ok), ([7, 4] ++ be16 0 ++ [1], .badArgument),
        ([7, 3] ++ be16 0 ++ [2], .badArgument), ([8, 3] ++ be16 0 ++ [1], .badArgument),
        ([6, 3] ++ be16 0 ++ [1], .notOwner)] = true := by decide +kernel
theorem test_witness_CaptureLinesAreFollowed :
    ∀ c ∈ [Command.subscribe, .unsubscribe, .readCapture],
      takes 1 c .attached (demo .halted) [([7], .ok), ([8], .badArgument)] = true := by
  decide +kernel
/-- Fetches of 0, 1, 4 and 5; attention 0, 1 and 2. -/
theorem test_witness_NotesAreFetched :
    takes 1 .fetchNotes .attached (noted 1 3 (demo .halted))
      [([0], .badArgument), ([1], .ok), ([4], .ok), ([5], .badArgument)] = true ∧
    takes 1 .setAttention .attached (demo .halted)
      [([0], .ok), ([1], .ok), ([2], .badArgument)] = true := by decide +kernel
theorem test_witness_LineOperationTable :
    let r : TriggerLine := ⟨some 1, .low, .active, some 9⟩
    r.pulse ≠ none ∧ r.level = .active ∧ State.reset.rstN = .high := by decide
/-- Queues of 30 and of 31, with a LOSS record and with an ordinary note at the tail. -/
theorem test_witness_NoteArrivalTable :
    let n : Note := .authority 0 .release
    (List.replicate 30 n).length ≤ 30 ∧ (List.replicate 30 n ++ [Note.loss 65535]).length = 31 ∧
    (List.replicate 31 n ++ [n]).length = 32 ∧ n.isLoss = false := by decide +kernel
/-- Entries at T and before it, one-shot and periodic. -/
theorem test_witness_FiringOfAnEntry :
    ∀ d ∈ [1000, 999], ∀ periodic ∈ [false, true],
      let due : Tick := BitVec.ofNat 48 d
      let e : Entry :=
        ⟨1, 0, .absolute, true, if periodic then some 1 else none, none, none, .armed due 0 none⟩
      let s := withEntry 7 2 e (demo .running)
      s.entry 7 = some e ∧ distance s.t due ≤ 0 ∧ e.period ≠ some 0 := by decide +kernel
/-- A port at its ceiling, one with room, and one with none. -/
theorem test_witness_AllocationDecision :
    let s := demo .halted
    let reserved := s.modQuota 2 (fun q => { q with reserve := 256 })
    AllocationFits (full s) ∧ ((full s).quota 1).ceiling ≤ ((full s).quota 1).usage ∧
    HasRoom 2 (full s) ∧ AllocationFits reserved ∧ ¬ HasRoom 1 reserved := by
  decide +kernel
/-- A state with an entry, a line with a pulse, a slew, notes and a lease about to expire, and a
REFCLK cycle waiting. -/
def lawful : State :=
  { leased 1 2 1 65535
      (noted 2 31 (owned 1 6 .active (some 1) (one (.armed 2000 0 none) .running))) with
    timeline := ⟨1000, .running, some ⟨2, 3, 16, 15⟩⟩
    pending := [.refclkCycle Held.nothing] }

theorem test_witness_StepKeepsNotesFit : NotesFit lawful := by decide +kernel
theorem test_witness_StepKeepsLinesFit : LinesFit lawful := by decide +kernel
theorem test_witness_StepKeepsPlaced : Placed lawful := by decide +kernel
theorem test_witness_StepKeepsAllocationFits : AllocationFits lawful := by decide +kernel
theorem test_witness_StepKeepsOwnership : Ownership lawful := by decide +kernel
theorem test_witness_StepKeepsSlewAndCapturesFit : SlewFits lawful ∧ CapturesFit lawful := by
  decide +kernel
theorem test_witness_StepKeepsPortsFit : PortsFit lawful := by decide +kernel
theorem test_witness_StepKeepsDeadlinesFit : DeadlinesFit lawful := by decide +kernel
theorem test_witness_StepKeeps_steps :
    (match Sys2Proof.Machine.step lawful with | .next t => t.pending.isEmpty | _ => false) = true :=
  by decide +kernel

end Sys2Proof.Tests
end

