-- ==== Sys2Proof/Proofs/TriggerLines.lean ====
section
/-! Operations on a trigger line (R87) and the pin that follows its record (R82). -/

namespace Sys2Proof.Machine

/-! ## What an operation writes (R87) -/

section Operations
variable (op : LineOp) (w : BitVec 16) (r : TriggerLine)

theorem LineOp.apply_frame :
    (op.apply r).owner = r.owner ∧ (op.apply r).idleLevel = r.idleLevel := by
  obtain ⟨_, _, level, pulse⟩ := r
  cases op with
  | set => exact ⟨rfl, rfl⟩
  | clear => exact ⟨rfl, rfl⟩
  | toggle => cases level <;> exact ⟨rfl, rfl⟩
  | pulse w => cases level <;> cases pulse <;> exact ⟨rfl, rfl⟩

@[simp] theorem LineOp.idleLevel_apply : (op.apply r).idleLevel = r.idleLevel :=
  (op.apply_frame r).2

theorem LineOp.level_apply_toggle :
    (LineOp.toggle.apply r).level = if r.level = .idle then .active else .idle := by
  obtain ⟨_, _, level, _⟩ := r
  cases level <;> rfl

theorem LineOp.pulse_apply_toggle : (LineOp.toggle.apply r).pulse = none := by
  obtain ⟨_, _, level, _⟩ := r
  cases level <;> rfl

theorem LineOp.level_apply_pulse : ((LineOp.pulse w).apply r).level = .active := by
  obtain ⟨_, _, level, pulse⟩ := r
  cases level <;> cases pulse <;> rfl

/-- A PULSE leaves the longer of its width and the pulse in flight. The table has no row for a pulse
on an IDLE line, which is what the hypothesis leaves out. -/
theorem LineOp.pulse_apply_pulse (h : r.pulse ≠ none → r.level = .active) :
    ((LineOp.pulse w).apply r).pulse = some (r.pulse.elim w (wider · w)) := by
  obtain ⟨_, _, level, pulse⟩ := r
  cases pulse with
  | none => cases level <;> rfl
  | some x =>
    obtain rfl : level = .active := h nofun
    rfl

end Operations

/-! ## The pin (R82) -/

section Pin
variable {s : State} (l : LineId)

theorem State.held_of_high (h : s.rstN = .high) : s.held = false := by
  simp [State.held, h]

theorem trgPin_of_high (h : s.rstN = .high) :
    trgPin s l = match (s.line l).level, (s.line l).idleLevel with
      | .idle, .low => .low | .idle, .high => .high
      | .active, .low => .high | .active, .high => .low := by
  rw [trgPin, State.held_of_high h]
  rcases (s.line l).level <;> rcases (s.line l).idleLevel <;> rfl

/-- Two records with one idle level put the pin at one level exactly when their levels agree. -/
theorem trgPin_modLine_eq_iff {a b : TriggerLine} (h : s.rstN = .high)
    (hidle : a.idleLevel = b.idleLevel) :
    trgPin (s.modLine l fun _ => a) l = trgPin (s.modLine l fun _ => b) l ↔
      a.level = b.level := by
  rw [trgPin_of_high (s := s.modLine l _) l h, trgPin_of_high (s := s.modLine l _) l h]
  simp only [line_modLine, if_pos, hidle]
  rcases a.level <;> rcases b.level <;> rcases b.idleLevel <;> decide

end Pin

/-- Settles O47: the rows of R87 one operation at a time, and for the pin that an operation keeps
the idle level. -/
theorem lineOperationTable : Obligations.LineOperationTable := by
  intro l r op w s hpulse
  have hwidest : ((LineOp.pulse w).apply r).pulse =
      some (match r.pulse with | none => w | some x => if x.toNat < w.toNat then w else x) := by
    rw [LineOp.pulse_apply_pulse w r hpulse]
    cases r.pulse <;> rfl
  exact ⟨op.apply_frame r, rfl, rfl, rfl, rfl, LineOp.level_apply_toggle r,
    LineOp.pulse_apply_toggle r, LineOp.level_apply_pulse w r, hwidest,
    fun hhigh => ⟨trgPin_of_high l hhigh,
      trgPin_modLine_eq_iff l hhigh (op.idleLevel_apply r)⟩⟩

end Sys2Proof.Machine
end

