-- ==== Sys2Proof/Proofs/NoteQueues.lean ====
section
/-! Notification queues: what a queue does with an arriving note (R117), the attention pin (R123),
and the bound on every queue that each step keeps (R118). -/

namespace Sys2Proof.Machine

/-! ## A note arrives at a queue (R117) -/

@[simp] theorem Note.isLoss_loss (c : BitVec 16) : (Note.loss c).isLoss = true := rfl

theorem Note.isLoss_eq_true_iff {n : Note} : n.isLoss = true ↔ ∃ c, n = .loss c := by
  cases n <;> simp [Note.isLoss]

theorem Note.isLoss_eq_false_iff {n : Note} : n.isLoss = false ↔ ∀ c, n ≠ .loss c := by
  cases n <;> simp [Note.isLoss]

section Arrival
variable (n : Note) (l : List Note) (attention : Bool)

theorem NoteQueue.arrive_room (h : l.length ≤ 30) :
    NoteQueue.arrive n ⟨l, attention⟩ = ⟨l ++ [n], attention⟩ := by
  simp [NoteQueue.arrive, arriveRecords_room n l h]

theorem NoteQueue.arrive_counted (c : BitVec 16) (h : 30 ≤ l.length) :
    NoteQueue.arrive n ⟨l ++ [.loss c], attention⟩ =
      ⟨l ++ [.loss (saturate c)], attention⟩ := by
  simp [NoteQueue.arrive, arriveRecords_counted n l c (by omega)]

theorem NoteQueue.arrive_full {tail : Note} (h : 30 ≤ l.length) (htail : tail.isLoss = false) :
    NoteQueue.arrive n ⟨l ++ [tail], attention⟩ = ⟨l ++ [tail, .loss 1], attention⟩ := by
  simp [NoteQueue.arrive,
    arriveRecords_full n tail l (by omega) (Note.isLoss_eq_false_iff.mp htail)]

end Arrival

theorem saturate_count (c : BitVec 16) : saturate c = if c = 65535 then 65535 else c + 1 := by
  rw [saturate, show BitVec.allOnes 16 = 65535 from rfl]
  split
  · assumption
  · rfl

/-- Settles O48: the cases of R117, one arrival lemma each. -/
theorem noteArrivalTable : Obligations.NoteArrivalTable := by
  intro n tail l c attention
  refine ⟨NoteQueue.arrive_room n l attention, fun hlength => ?_⟩
  have hfull : 30 ≤ l.length := by
    simp only [List.length_append, List.length_singleton] at hlength
    omega
  refine ⟨?_, NoteQueue.arrive_full n l attention hfull⟩
  rintro rfl
  rw [← saturate_count]
  exact NoteQueue.arrive_counted n l attention c hfull

/-! ## The attention pin (R123) -/

/-- Settles O49: a queue is empty or not, and its attention is on or off. -/
theorem attentionPin : Obligations.AttentionPin := by
  intro p s
  unfold attnPin
  cases (s.noteQueue p).records <;> cases (s.noteQueue p).attention <;> simp

/-! ## The bound on one queue (R118)

A queue of 32 must end in a LOSS record for the bound to be kept: with an ordinary note at its tail
it would take a 33rd record. -/

/-- What `NotesFit` asks of one queue. -/
def NoteQueue.Fits (q : NoteQueue) : Prop :=
  q.records.length ≤ 32 ∧ (q.records.filter (fun n => !n.isLoss)).length ≤ 31 ∧
  (q.records.length = 32 → q.records.getLast?.any Note.isLoss = true)

theorem notesFit_iff {s : State} : NotesFit s ↔ ∀ p, (s.noteQueue p).Fits := Iff.rfl

/-- A queue with an ordinary note at its tail has room for one record more. -/
theorem NoteQueue.Fits.length_lt {l : List Note} {tail : Note} {attention : Bool}
    (h : NoteQueue.Fits ⟨l ++ [tail], attention⟩) (htail : tail.isLoss = false) :
    l.length < 31 := by
  obtain ⟨hlength, -, hlast⟩ := h
  have h32 : l.length + 1 ≠ 32 := by simpa [htail] using hlast
  simp only [List.length_append, List.length_singleton] at hlength
  omega

theorem NoteQueue.Fits.arrive {q : NoteQueue} (h : q.Fits) (n : Note) : (q.arrive n).Fits := by
  obtain ⟨records, attention⟩ := q
  rcases Nat.lt_or_ge 30 records.length with hfull | hroom
  · obtain rfl | ⟨l, tail, rfl⟩ := records.eq_nil_or_concat'
    · exact absurd hfull (by simp)
    have hl : 30 ≤ l.length := by
      rw [List.length_append, List.length_singleton] at hfull
      omega
    cases htail : tail.isLoss with
    | true =>
      obtain ⟨c, rfl⟩ := Note.isLoss_eq_true_iff.mp htail
      rw [arrive_counted n l attention c hl]
      simpa [Fits] using h
    | false =>
      have hlt := h.length_lt htail
      rw [arrive_full n l attention hl htail]
      obtain ⟨-, hordinary, -⟩ := h
      refine ⟨by simp; omega, ?_, by simp⟩
      simpa [htail] using hordinary
  · rw [arrive_room n records attention hroom]
    have hlength : (records ++ [n]).length ≤ 31 := by simp; omega
    exact ⟨by dsimp only; omega, (List.length_filter_le _ _).trans hlength,
      fun h32 => by dsimp only at h32; omega⟩

/-- A fetch takes records from the head, and what remains fits (R120). -/
theorem NoteQueue.Fits.drop {q : NoteQueue} (h : q.Fits) (k : Nat) :
    NoteQueue.Fits { q with records := q.records.drop k } := by
  obtain ⟨hlength, hordinary, hlast⟩ := h
  refine ⟨by simp; omega, ?_, fun h32 => ?_⟩
  · exact (((List.drop_sublist k _).filter _).length_le).trans hordinary
  · simp only [List.length_drop] at h32
    obtain rfl : k = 0 := by omega
    exact hlast (by omega)

theorem NoteQueue.Fits.setAttention {q : NoteQueue} (h : q.Fits) (b : Bool) :
    NoteQueue.Fits { q with attention := b } := h

theorem NoteQueue.fits_reset : NoteQueue.reset.Fits := by simp [Fits, reset]

/-! ## The operations over the state -/

section Operations
variable {s t : State}

/-- What leaves the queues alone keeps their bound. -/
theorem NotesFit.of_notes_eq (h : NotesFit s) (heq : t.notes = s.notes) : NotesFit t := by
  simpa only [NotesFit, State.noteQueue, heq] using h

theorem notesFit_of_notes_reset (heq : t.notes = State.reset.notes) : NotesFit t := by
  intro p
  have hq : t.noteQueue p = NoteQueue.reset := by simp [State.noteQueue, heq, State.reset]
  rw [hq]
  exact NoteQueue.fits_reset

theorem NotesFit.modNotes (h : NotesFit s) (p : Port) {f : NoteQueue → NoteQueue}
    (hf : ∀ q : NoteQueue, q.Fits → (f q).Fits) : NotesFit (s.modNotes p f) := by
  rw [notesFit_iff]
  intro q
  rw [noteQueue_modNotes]
  split
  · exact hf _ (h p)
  · exact h q

theorem NotesFit.sendNote (h : NotesFit s) (p : Port) (n : Note) :
    NotesFit (Machine.sendNote p n s) :=
  h.modNotes p fun _ hq => hq.arrive n

theorem NotesFit.sendNoteTo (h : NotesFit s) (goes : Port → Bool) (n : Note) :
    NotesFit (Machine.sendNoteTo goes n s) := by
  rw [notesFit_iff]
  intro q
  rw [noteQueue_sendNoteTo]
  split
  · exact NoteQueue.Fits.arrive (h q) n
  · exact h q

theorem NotesFit.sendTimelineNote (h : NotesFit s) (op : TimelineOp) (before second : Tick) :
    NotesFit (Machine.sendTimelineNote op before second s) :=
  h.sendNoteTo _ _

/-! ### Firing and arrival (R26, R29, R35) -/

theorem NotesFit.joinQueue (h : NotesFit s) (i : SlotId) (e : Entry) (due : Tick)
    (late : Option LateMark) : NotesFit (Machine.joinQueue i e due late s) :=
  h.of_notes_eq rfl

theorem NotesFit.freeSlot (h : NotesFit s) (i : SlotId) : NotesFit (Machine.freeSlot i s) := by
  obtain ⟨-, -, -, -, -, hnotes, -⟩ := freeSlot_frame i s
  exact h.of_notes_eq hnotes

theorem NotesFit.firingNote (h : NotesFit s) (i : SlotId) (ev : FiringEvent) (e : Entry)
    (due : Tick) (late : Option LateMark) : NotesFit (Machine.firingNote i ev e due late s) := by
  unfold Machine.firingNote
  split
  · exact h.sendNote _ _
  · exact h

theorem NotesFit.firingAction (h : NotesFit s) (e : Entry) :
    NotesFit (Machine.firingAction e s) := by
  rw [firingAction_eq]
  exact h.of_notes_eq rfl

theorem NotesFit.firingDisposition (h : NotesFit s) (i : SlotId) (e : Entry) (due : Tick) :
    NotesFit (Machine.firingDisposition i e due s) := by
  unfold Machine.firingDisposition
  split
  · exact h.freeSlot i
  · exact h.joinQueue _ _ _ _

theorem NotesFit.fire (h : NotesFit s) (ev : FiringEvent) (i : SlotId) :
    NotesFit (Machine.fire ev s i) := by
  unfold Machine.fire
  split
  · exact h
  · split
    · exact ((h.firingNote _ _ _ _ _).firingAction _).firingDisposition _ _ _
    · exact h

theorem NotesFit.fireAll (h : NotesFit s) (ev : FiringEvent) (slots : List SlotId) :
    NotesFit (Machine.fireAll ev slots s) :=
  List.foldlRecOn slots _ h fun _ hu i _ => hu.fire ev i

theorem NotesFit.fireReached (h : NotesFit s) (ev : FiringEvent) :
    NotesFit (Machine.fireReached ev s) :=
  h.fireAll ev _

theorem NotesFit.arrive (h : NotesFit s) (i : SlotId) (e : Entry) (due : Tick)
    (late : Option LateMark) : NotesFit (Machine.arrive i e due late s) := by
  unfold Machine.arrive
  dsimp only
  split
  · split
    · exact (h.joinQueue i e due late).fire _ _
    · exact h.joinQueue i e due late
  · exact h.joinQueue _ _ _ _

/-! ### The capture unit's event (R98, R101) -/

theorem NotesFit.releaseEntry (h : NotesFit s) (timestamp : Tick) (i : SlotId) :
    NotesFit (Machine.releaseEntry timestamp s i) := by
  unfold Machine.releaseEntry
  split
  · exact h
  · split
    · exact h.joinQueue _ _ _ _
    · exact h

theorem NotesFit.releaseEntries (h : NotesFit s) (timestamp : Tick) (slots : List SlotId) :
    NotesFit (Machine.releaseEntries timestamp slots s) := by
  have hjoined : NotesFit (slots.foldl (Machine.releaseEntry timestamp) s) :=
    List.foldlRecOn slots _ h fun _ hu i _ => hu.releaseEntry timestamp i
  unfold Machine.releaseEntries
  dsimp only
  split
  · exact hjoined.fireAll _ _
  · exact hjoined

theorem NotesFit.modCap (h : NotesFit s) (c : CaptureId) (f : CaptureLine → CaptureLine) :
    NotesFit (s.modCap c f) :=
  h.of_notes_eq rfl

theorem NotesFit.acceptEdge (h : NotesFit s) (c : CaptureId) (edge : Edge) :
    NotesFit (Machine.acceptEdge c edge s) :=
  ((h.modCap c _).sendNoteTo _ _).releaseEntries _ _

theorem NotesFit.takeEdge (h : NotesFit s) (c : CaptureId) (edge : Edge) :
    NotesFit (Machine.takeEdge c edge s) := by
  unfold Machine.takeEdge
  dsimp only
  split
  · exact h
  · split
    · exact h.modCap c _
    · exact h.acceptEdge c edge

theorem NotesFit.sampleLine (h : NotesFit s) (levels : Vector Level 8) (c : CaptureId) :
    NotesFit (Machine.sampleLine levels s c) := by
  unfold Machine.sampleLine
  dsimp only
  split
  · exact h.modCap c _
  · exact (h.modCap c _).takeEdge c _

theorem NotesFit.captureEvent (h : NotesFit s) (levels : Vector Level 8)
    (order : List CaptureId) : NotesFit (Machine.captureEvent levels order s) :=
  List.foldlRecOn _ _ (h.of_notes_eq rfl) fun _ hu c _ => hu.sampleLine levels c

theorem NotesFit.sampleUnchanged (h : NotesFit s) : NotesFit (Machine.sampleUnchanged s) :=
  h.of_notes_eq rfl

/-! ### Handover and teardown (R137, R145) -/

theorem NotesFit.handOver (h : NotesFit s) (previous : Port) (cause : HandoverCause) :
    NotesFit (Machine.handOver previous cause s) := by
  unfold Machine.handOver
  split
  · exact h.of_notes_eq rfl
  · exact NotesFit.sendNote (h.of_notes_eq rfl) _ _

theorem NotesFit.teardownAuthority (h : NotesFit s) (p : Port) :
    NotesFit (Machine.teardownAuthority p s) := by
  unfold Machine.teardownAuthority
  split
  · exact h.handOver p _
  · exact h.of_notes_eq rfl

theorem NotesFit.teardown (h : NotesFit s) (p : Port) : NotesFit (Machine.teardown p s) :=
  NotesFit.teardownAuthority
    (NotesFit.modNotes (NotesFit.of_notes_eq h (by rfl)) p fun _ _ => NoteQueue.fits_reset) p

theorem NotesFit.modSession (h : NotesFit s) (p : Port) (f : Session → Session) :
    NotesFit (s.modSession p f) :=
  h.of_notes_eq rfl

theorem NotesFit.countLease (h : NotesFit s) (p : Port) : NotesFit (Machine.countLease p s) := by
  unfold Machine.countLease
  dsimp only
  split
  · exact (h.teardown p).modSession p _
  · split
    · exact h.modSession p _
    · split
      · exact h.modSession p _
      · exact h

theorem NotesFit.setLeaseTurn (h : NotesFit s) (p : Port) (turn : Turn) :
    NotesFit (s.setLeaseTurn p turn) :=
  h.of_notes_eq rfl

theorem NotesFit.ownLeaseCount (h : NotesFit s) (p : Port) :
    NotesFit (Machine.ownLeaseCount p s) :=
  (h.setLeaseTurn p _).countLease p

/-! ### The timeline (R3, R10, R13, R15) -/

theorem NotesFit.withTimeline (h : NotesFit s) (tl : Timeline) : NotesFit (s.withTimeline tl) :=
  h.of_notes_eq rfl

theorem NotesFit.cutSlew (h : NotesFit s) : NotesFit (Machine.cutSlew s) := by
  unfold Machine.cutSlew
  split
  · exact h
  · exact (h.withTimeline _).sendTimelineNote _ _ _

theorem NotesFit.stepTimeline (h : NotesFit s) (amount : Tick) :
    NotesFit (Machine.stepTimeline amount s) := by
  unfold Machine.stepTimeline
  refine NotesFit.sendTimelineNote ?_ _ _ _
  split
  · exact NotesFit.fireAll (NotesFit.of_notes_eq h.cutSlew (by rfl)) _ _
  · exact NotesFit.of_notes_eq h.cutSlew rfl

theorem NotesFit.advance (h : NotesFit s) (n : Tick) : NotesFit (Machine.advance n s) :=
  (h.withTimeline _).fireReached _

theorem NotesFit.takeSlewCycle (h : NotesFit s) (r : Slew) :
    NotesFit (Machine.takeSlewCycle r s) := by
  have hslewed := h.withTimeline { s.timeline with slew := r.applied }
  have hmoved : NotesFit
      (if r.remaining.toInt < 0 then s.withTimeline { s.timeline with slew := r.applied }
        else Machine.advance 2 (s.withTimeline { s.timeline with slew := r.applied })) := by
    split
    · exact hslewed
    · exact hslewed.advance 2
  unfold Machine.takeSlewCycle
  dsimp only
  split
  · exact hmoved
  · exact hmoved.sendTimelineNote _ _ _

theorem NotesFit.timelineCycle (h : NotesFit s) : NotesFit (Machine.timelineCycle s) := by
  unfold Machine.timelineCycle
  split
  · split
    · exact h.advance 1
    · split
      · exact h.takeSlewCycle _
      · exact (h.withTimeline _).advance 1
  · exact h

/-! ### A REFCLK cycle -/

theorem NotesFit.countPulses (h : NotesFit s) : NotesFit (Machine.countPulses s) :=
  h.of_notes_eq rfl

theorem NotesFit.cycleCapture (h : NotesFit s) (held : Bool) :
    NotesFit (Machine.cycleCapture held s) := by
  unfold Machine.cycleCapture
  split
  · exact h.of_notes_eq rfl
  · split <;> exact h.of_notes_eq rfl

theorem NotesFit.cycleLease (h : NotesFit s) (held : BitVec 4) (p : Port) :
    NotesFit (Machine.cycleLease held s p) := by
  unfold Machine.cycleLease
  split
  · exact h.setLeaseTurn p _
  · split
    · exact h.setLeaseTurn p _
    · exact (h.setLeaseTurn p _).countLease p

theorem NotesFit.settleLease (h : NotesFit s) (p : Port) : NotesFit (Machine.settleLease s p) := by
  unfold Machine.settleLease
  split
  · exact (h.setLeaseTurn p _).countLease p
  · exact h

theorem NotesFit.settle (h : NotesFit s) : NotesFit (Machine.settle s) := by
  have hcapture : NotesFit (settleCapture s) := by
    unfold settleCapture
    split
    · exact h.of_notes_eq rfl
    · exact h
  exact List.foldlRecOn _ _ hcapture fun _ hu p _ => hu.settleLease p

theorem NotesFit.cycle (h : NotesFit s) (held : Held) : NotesFit (Machine.cycle held s) := by
  unfold Machine.cycle
  split
  · exact h
  · exact List.foldlRecOn _ _ (h.settle.countPulses.timelineCycle.cycleCapture _)
      fun _ hu p _ => hu.cycleLease held.leases p

end Operations

/-! ## The commands of the hosts -/

/-- A command that is carried out leaves a state with the property; a refused one has no state of
its own (R162). -/
def Leaves (P : State → Prop) : Verdict → Prop
  | .error _ => True
  | .ok d => P d.state

section Commands
variable {s : State} (p : Port) (args : List Byte)

/-! ### Sessions -/

theorem attachCommand_leaves_notesFit (h : NotesFit s) :
    Leaves NotesFit (attachCommand p args s) := by
  unfold attachCommand
  dsimp only
  split
  · trivial
  · split
    · exact h.modSession p _
    · exact (h.modSession p _).modNotes p fun _ hq => hq.setAttention true

theorem detachCommand_leaves_notesFit (h : NotesFit s) : Leaves NotesFit (detachCommand p s) := by
  unfold detachCommand
  dsimp only
  split
  · exact (h.teardown p).modSession p _
  · exact h.modSession p _
  · trivial

/-! ### The timeline -/

theorem startCommand_leaves_notesFit (h : NotesFit s) : Leaves NotesFit (startCommand s) := by
  unfold startCommand
  split
  · trivial
  · exact ((h.withTimeline _).fireReached _).sendTimelineNote _ _ _

theorem haltCommand_leaves_notesFit (h : NotesFit s) : Leaves NotesFit (haltCommand s) := by
  unfold haltCommand
  split
  · exact (h.withTimeline _).sendTimelineNote _ _ _
  · trivial

theorem stepCommand_leaves_notesFit (h : NotesFit s) : Leaves NotesFit (stepCommand args s) := by
  unfold stepCommand
  split
  · trivial
  · split
    · trivial
    · split
      · trivial
      · exact h.stepTimeline _

theorem slewCommand_leaves_notesFit (h : NotesFit s) : Leaves NotesFit (slewCommand args s) := by
  unfold slewCommand
  dsimp only
  split
  · trivial
  · split
    · trivial
    · change NotesFit _
      split
      · exact h.cutSlew
      · exact h.cutSlew.withTimeline _

/-! ### The authority and the slot pool -/

theorem claimAuthorityCommand_leaves_notesFit (h : NotesFit s) :
    Leaves NotesFit (claimAuthorityCommand p s) := by
  unfold claimAuthorityCommand
  split
  · exact h.of_notes_eq rfl
  · split
    · exact h
    · split
      · exact h
      · exact h.of_notes_eq rfl

theorem releaseAuthorityCommand_leaves_notesFit (h : NotesFit s) :
    Leaves NotesFit (releaseAuthorityCommand p s) := by
  unfold releaseAuthorityCommand
  split
  · exact h.handOver p _
  · split
    · exact h.of_notes_eq rfl
    · trivial

theorem setReservesCommand_leaves_notesFit (h : NotesFit s) :
    Leaves NotesFit (setReservesCommand args s) := by
  unfold setReservesCommand
  split
  · exact h.of_notes_eq rfl
  · trivial

theorem setCeilingCommand_leaves_notesFit (h : NotesFit s) :
    Leaves NotesFit (setCeilingCommand args s) := by
  unfold setCeilingCommand
  split
  · trivial
  · dsimp only
    split
    · trivial
    · split
      · trivial
      · exact h.of_notes_eq rfl

/-! ### Entries -/

theorem armCommand_leaves_notesFit (h : NotesFit s) : Leaves NotesFit (armCommand p args s) := by
  have hraised : NotesFit (raiseUsage p s) := h.of_notes_eq rfl
  unfold armCommand
  dsimp only
  split
  · trivial
  · split
    · trivial
    · split
      · trivial
      · split
        · trivial
        · split
          · trivial
          · exact hraised.arrive _ _ _ _

theorem armOnCaptureCommand_leaves_notesFit (h : NotesFit s) :
    Leaves NotesFit (armOnCaptureCommand p args s) := by
  unfold armOnCaptureCommand
  dsimp only
  split
  · trivial
  · split
    · trivial
    · split
      · trivial
      · split
        · trivial
        · exact h.of_notes_eq rfl

theorem modifyCommand_leaves_notesFit (h : NotesFit s) :
    Leaves NotesFit (modifyCommand p args s) := by
  unfold modifyCommand
  dsimp only
  split
  · trivial
  · split
    · split
      · trivial
      · split
        · trivial
        · split
          · trivial
          · exact h.arrive _ _ _ _
    · trivial

theorem pauseCommand_leaves_notesFit (h : NotesFit s) :
    Leaves NotesFit (pauseCommand p args s) := by
  unfold pauseCommand
  dsimp only
  split
  · trivial
  · split
    · exact h.of_notes_eq rfl
    · trivial

theorem resumeCommand_leaves_notesFit (h : NotesFit s) :
    Leaves NotesFit (resumeCommand p args s) := by
  unfold resumeCommand
  dsimp only
  split
  · trivial
  · split
    · exact h.arrive _ _ _ _
    · trivial

theorem cancelCommand_leaves_notesFit (h : NotesFit s) :
    Leaves NotesFit (cancelCommand p args s) := by
  unfold cancelCommand
  dsimp only
  split
  · trivial
  · exact h.freeSlot _

theorem queryEntryCommand_leaves_notesFit (h : NotesFit s) :
    Leaves NotesFit (queryEntryCommand p args s) := by
  unfold queryEntryCommand
  dsimp only
  split
  · trivial
  · exact h

/-! ### Trigger lines -/

theorem claimLineCommand_leaves_notesFit (h : NotesFit s) :
    Leaves NotesFit (claimLineCommand p args s) := by
  unfold claimLineCommand
  split
  · split
    · trivial
    · exact h.of_notes_eq rfl
  · trivial

theorem releaseLineCommand_leaves_notesFit (h : NotesFit s) :
    Leaves NotesFit (releaseLineCommand p args s) := by
  unfold releaseLineCommand
  split
  · trivial
  · split
    · trivial
    · split
      · trivial
      · exact h.of_notes_eq rfl

theorem driveLineCommand_leaves_notesFit (h : NotesFit s) :
    Leaves NotesFit (driveLineCommand p args s) := by
  unfold driveLineCommand
  split
  · trivial
  · split
    · trivial
    · exact h.of_notes_eq rfl

/-! ### Capture lines -/

theorem claimCaptureCommand_leaves_notesFit (h : NotesFit s) :
    Leaves NotesFit (claimCaptureCommand p args s) := by
  unfold claimCaptureCommand
  split
  · trivial
  · split
    · split
      · exact h
      · trivial
    · exact h.modCap _ _

theorem releaseCaptureCommand_leaves_notesFit (h : NotesFit s) :
    Leaves NotesFit (releaseCaptureCommand p args s) := by
  unfold releaseCaptureCommand
  split
  · trivial
  · split
    · trivial
    · exact h.modCap _ _

theorem configureCaptureCommand_leaves_notesFit (h : NotesFit s) :
    Leaves NotesFit (configureCaptureCommand p args s) := by
  unfold configureCaptureCommand
  split
  · split
    · trivial
    · exact h.modCap _ _
  · trivial

theorem subscribeCommand_leaves_notesFit (h : NotesFit s) :
    Leaves NotesFit (subscribeCommand p args s) := by
  unfold subscribeCommand
  split
  · trivial
  · exact h.modCap _ _

theorem unsubscribeCommand_leaves_notesFit (h : NotesFit s) :
    Leaves NotesFit (unsubscribeCommand p args s) := by
  unfold unsubscribeCommand
  split
  · trivial
  · exact h.modCap _ _

theorem readCaptureCommand_leaves_notesFit (h : NotesFit s) :
    Leaves NotesFit (readCaptureCommand args s) := by
  unfold readCaptureCommand
  split
  · trivial
  · exact h

/-! ### Notes -/

theorem fetchNotesCommand_leaves_notesFit (h : NotesFit s) :
    Leaves NotesFit (fetchNotesCommand p args s) := by
  unfold fetchNotesCommand
  dsimp only
  split
  · trivial
  · exact h.modNotes p fun _ hq => hq.drop _

theorem setAttentionCommand_leaves_notesFit (h : NotesFit s) :
    Leaves NotesFit (setAttentionCommand p args s) := by
  unfold setAttentionCommand
  split
  · trivial
  · exact h.modNotes p fun _ hq => hq.setAttention _

/-! ### Any command, checked and carried out (R162) -/

/-- Every command keeps the bound; those that only read leave the state itself. -/
theorem carryOut_leaves_notesFit (c : Command) (remaining : BitVec 16) (h : NotesFit s) :
    Leaves NotesFit (carryOut c p args remaining s) := by
  cases c with
  | status | readTime | listEntries | readLines => exact h
  | attach => exact attachCommand_leaves_notesFit p args h
  | detach => exact detachCommand_leaves_notesFit p h
  | start => exact startCommand_leaves_notesFit h
  | halt => exact haltCommand_leaves_notesFit h
  | step => exact stepCommand_leaves_notesFit args h
  | slew => exact slewCommand_leaves_notesFit args h
  | claimAuthority => exact claimAuthorityCommand_leaves_notesFit p h
  | releaseAuthority => exact releaseAuthorityCommand_leaves_notesFit p h
  | setReserves => exact setReservesCommand_leaves_notesFit args h
  | setCeiling => exact setCeilingCommand_leaves_notesFit args h
  | arm => exact armCommand_leaves_notesFit p args h
  | armOnCapture => exact armOnCaptureCommand_leaves_notesFit p args h
  | modify => exact modifyCommand_leaves_notesFit p args h
  | pause => exact pauseCommand_leaves_notesFit p args h
  | resume => exact resumeCommand_leaves_notesFit p args h
  | cancel => exact cancelCommand_leaves_notesFit p args h
  | queryEntry => exact queryEntryCommand_leaves_notesFit p args h
  | claimLine => exact claimLineCommand_leaves_notesFit p args h
  | releaseLine => exact releaseLineCommand_leaves_notesFit p args h
  | driveLine => exact driveLineCommand_leaves_notesFit p args h
  | claimCapture => exact claimCaptureCommand_leaves_notesFit p args h
  | releaseCapture => exact releaseCaptureCommand_leaves_notesFit p args h
  | configureCapture => exact configureCaptureCommand_leaves_notesFit p args h
  | subscribe => exact subscribeCommand_leaves_notesFit p args h
  | unsubscribe => exact unsubscribeCommand_leaves_notesFit p args h
  | readCapture => exact readCaptureCommand_leaves_notesFit args h
  | fetchNotes => exact fetchNotesCommand_leaves_notesFit p args h
  | setAttention => exact setAttentionCommand_leaves_notesFit p args h

theorem judge_leaves_notesFit (c : Command) (remaining : BitVec 16) (h : NotesFit s) :
    Leaves NotesFit (judge c p args (carryOut c p args remaining) s) := by
  unfold judge
  split
  · trivial
  · exact carryOut_leaves_notesFit p args c remaining h

theorem judgeCode_leaves_notesFit (code : Byte) (remaining : BitVec 16) (h : NotesFit s) :
    Leaves NotesFit (judgeCode code p args remaining s) := by
  unfold judgeCode
  split
  · trivial
  · exact judge_leaves_notesFit p args _ remaining h

end Commands

/-! ## Frames (R153 to R155) -/

/-- The state that a row leads to, if it leads to one, has the property. -/
def LeadsTo (P : State → Prop) (r : Result) : Prop := ∀ t, r = .next t → P t

@[simp] theorem leadsTo_next {P : State → Prop} {t : State} : LeadsTo P (.next t) ↔ P t :=
  ⟨fun h => h t rfl, fun h _ ht => (Host.Outcome.next.inj ht) ▸ h⟩

@[simp] theorem leadsTo_fault {P : State → Prop} (f : Fault) : LeadsTo P (.fault f) := nofun

section Frames
variable {s : State} {verdict : State → Verdict} (p : Port) (code seq : Byte) (args : List Byte)
  (check : Byte)

theorem NotesFit.startAnswer (h : NotesFit s) (r : Response) :
    NotesFit (Machine.startAnswer p r s) :=
  h.of_notes_eq rfl

theorem NotesFit.finish (h : NotesFit s) (status : Status) (data : List Byte) :
    NotesFit (Machine.finish p seq check status data s) :=
  h.of_notes_eq rfl

theorem NotesFit.renewLease (h : NotesFit s) : NotesFit (Machine.renewLease p s) :=
  h.of_notes_eq (renewLease_notes p s)

/-- The renewal and the end of a take reach no queue, so a take keeps what its verdict keeps. -/
theorem NotesFit.takeFrame (h : NotesFit s)
    (hverdict : ∀ u, NotesFit u → Leaves NotesFit (verdict u)) :
    NotesFit (Machine.takeFrame p seq check verdict s) := by
  have hleft := hverdict _ (h.renewLease p)
  unfold Machine.takeFrame
  dsimp only
  split
  · exact (h.renewLease p).finish p seq check _ _
  · next d hd =>
    rw [hd] at hleft
    exact NotesFit.finish p seq check hleft d.status d.data

theorem NotesFit.decideFrame (h : NotesFit s)
    (hverdict : ∀ u, NotesFit u → Leaves NotesFit (verdict u)) :
    NotesFit (Machine.decideFrame p code seq args check verdict s) := by
  unfold Machine.decideFrame
  split
  · exact h.startAnswer p _
  · split
    · exact (h.renewLease p).startAnswer p _
    · exact h.takeFrame p seq check hverdict

theorem frameArrives_leadsTo_notesFit (h : NotesFit s)
    (hverdict : ∀ u, NotesFit u → Leaves NotesFit (verdict u)) :
    LeadsTo NotesFit (frameArrives p code seq args check verdict s) := by
  unfold frameArrives
  split
  · exact leadsTo_fault _
  · split
    · exact leadsTo_next.mpr h
    · split
      · split
        · split
          · exact leadsTo_next.mpr (h.startAnswer p _)
          · exact leadsTo_next.mpr (h.decideFrame p code seq args check hverdict)
        · exact leadsTo_next.mpr h
      · exact leadsTo_next.mpr h

/-- The row of a known command (R162). -/
theorem commandRow_leadsTo_notesFit (c : Command) (h : NotesFit s) :
    LeadsTo NotesFit
      (commandRow c p seq args (carryOut c p args (s.session p).leaseRemaining) s) :=
  frameArrives_leadsTo_notesFit p _ seq args _ h fun _ hu => judge_leaves_notesFit p args c _ hu

/-- A frame of any code that arrives whole (R154, R155, R163). -/
theorem frameOfAnyCode_leadsTo_notesFit (h : NotesFit s) :
    LeadsTo NotesFit (frameArrives p code seq args check (s.verdict code p args) s) :=
  frameArrives_leadsTo_notesFit p code seq args check h
    fun _ hu => judgeCode_leaves_notesFit p args code _ hu

theorem NotesFit.modPort (h : NotesFit s) (f : PortEngine → PortEngine) :
    NotesFit (s.modPort p f) :=
  h.of_notes_eq rfl

theorem NotesFit.receiveByte (h : NotesFit s) (bytes : List Byte) (b : Byte) :
    NotesFit (Machine.receiveByte p bytes b s) := by
  unfold Machine.receiveByte
  split
  · split
    · exact h.startAnswer p _
    · exact h.modPort p _
  · split
    · exact h.decideFrame p _ _ _ _ fun _ hu => judgeCode_leaves_notesFit p _ _ _ hu
    · exact h.modPort p _
  · exact h.modPort p _

theorem execByteReceived_leadsTo_notesFit (h : NotesFit s) (b : Byte) :
    LeadsTo NotesFit (execByteReceived p b s) := by
  unfold execByteReceived
  split
  · exact leadsTo_next.mpr h
  · split
    · exact leadsTo_next.mpr (h.receiveByte p _ b)
    · exact leadsTo_next.mpr (h.modPort p _)
    · exact leadsTo_next.mpr h
    · exact leadsTo_next.mpr h

theorem execBadFrameLength_leadsTo_notesFit (h : NotesFit s) (len : Byte) :
    LeadsTo NotesFit (execBadFrameLength p code seq len s) := by
  unfold execBadFrameLength
  split
  · exact leadsTo_next.mpr h
  · split
    · split
      · exact leadsTo_next.mpr (h.receiveByte p _ len)
      · exact leadsTo_next.mpr h
    · exact leadsTo_next.mpr h

theorem execFrameBegin_leadsTo_notesFit (h : NotesFit s) :
    LeadsTo NotesFit (execFrameBegin p s) := by
  unfold execFrameBegin
  split
  · exact leadsTo_next.mpr h
  · exact leadsTo_next.mpr (h.modPort p _)

theorem execResponseShiftedOut_leadsTo_notesFit (h : NotesFit s) :
    LeadsTo NotesFit (execResponseShiftedOut p s) := by
  unfold execResponseShiftedOut
  split
  · exact leadsTo_next.mpr (h.modPort p _)
  · exact leadsTo_next.mpr h

end Frames

/-! ## Resets, the clock and the pins -/

section Events
variable {s : State}

theorem execPowerOn_leadsTo_notesFit : LeadsTo NotesFit (execPowerOn s) :=
  leadsTo_next.mpr (notesFit_of_notes_reset rfl)

theorem execDeviceReset_leadsTo_notesFit (h : NotesFit s) :
    LeadsTo NotesFit (execDeviceReset s) := by
  unfold execDeviceReset
  split
  · exact leadsTo_next.mpr h
  · exact leadsTo_next.mpr (notesFit_of_notes_reset rfl)

theorem execResetRelease_leadsTo_notesFit (h : NotesFit s) :
    LeadsTo NotesFit (execResetRelease s) := by
  unfold execResetRelease
  split
  · exact leadsTo_next.mpr (h.of_notes_eq rfl)
  · exact leadsTo_next.mpr h

/-- A row that takes a cycle or, where its event cannot occur, changes nothing. -/
theorem NotesFit.cycle_if (h : NotesFit s) (takes : Bool) (held : Held) :
    NotesFit (if takes then Machine.cycle held s else s) := by
  split
  · exact h.cycle held
  · exact h

theorem execHoldoffWindowClose_leadsTo_notesFit (h : NotesFit s) (c : CaptureId) :
    LeadsTo NotesFit (execHoldoffWindowClose c s) := by
  unfold execHoldoffWindowClose
  split
  · exact leadsTo_next.mpr h
  · exact leadsTo_next.mpr (h.of_notes_eq rfl)

theorem execLeaseUnitBoundary_leadsTo_notesFit (h : NotesFit s) (p : Port) :
    LeadsTo NotesFit (execLeaseUnitBoundary p s) := by
  unfold execLeaseUnitBoundary
  split
  · exact leadsTo_next.mpr h
  · exact leadsTo_next.mpr (h.ownLeaseCount p)

theorem execLeaseExpiry_leadsTo_notesFit (h : NotesFit s) (p : Port) :
    LeadsTo NotesFit (execLeaseExpiry p s) := by
  unfold execLeaseExpiry
  split
  · exact leadsTo_next.mpr h
  · exact leadsTo_next.mpr (h.ownLeaseCount p)

theorem execCaptureEdge_leadsTo_notesFit (h : NotesFit s) (levels : Vector Level 8)
    (order : List CaptureId) (early : Bool) :
    LeadsTo NotesFit (execCaptureEdge levels order early s) := by
  unfold execCaptureEdge
  split
  · exact leadsTo_next.mpr (h.of_notes_eq rfl)
  · split
    · exact leadsTo_next.mpr (NotesFit.captureEvent (h.of_notes_eq (by rfl)) levels order)
    · exact leadsTo_next.mpr (NotesFit.captureEvent (h.of_notes_eq (by rfl)) levels order)
    · exact leadsTo_next.mpr h

end Events

/-! ## Every row, and the step -/

theorem exec_leadsTo_notesFit {s : State} (row : Instr) (h : NotesFit s) :
    LeadsTo NotesFit (exec row s) := by
  cases row with
  | powerOn => exact execPowerOn_leadsTo_notesFit
  | deviceReset => exact execDeviceReset_leadsTo_notesFit h
  | resetRelease => exact execResetRelease_leadsTo_notesFit h
  | timelineAdvance held | refclkCycle held => exact leadsTo_next.mpr (h.cycle held)
  | slewCycle held | slewDone held => exact leadsTo_next.mpr (h.cycle_if _ held)
  | pulseExpiry line => exact leadsTo_next.mpr (h.cycle_if _ _)
  | holdoffWindowClose line => exact execHoldoffWindowClose_leadsTo_notesFit h line
  | leaseUnitBoundary p => exact execLeaseUnitBoundary_leadsTo_notesFit h p
  | leaseExpiry p => exact execLeaseExpiry_leadsTo_notesFit h p
  | captureEdge levels order early =>
    exact execCaptureEdge_leadsTo_notesFit h levels order early
  | frameBegin p => exact execFrameBegin_leadsTo_notesFit p h
  | frameEnd p => exact leadsTo_next.mpr (h.modPort p _)
  | badFrameLength p code seq len => exact execBadFrameLength_leadsTo_notesFit p code seq h len
  | badFrame p code seq args check =>
    exact frameOfAnyCode_leadsTo_notesFit p code seq args check h
  | replay p code seq args | unknownCommand p code seq args =>
    exact frameOfAnyCode_leadsTo_notesFit p code seq args _ h
  | responseShiftedOut p => exact execResponseShiftedOut_leadsTo_notesFit p h
  | byteReceived p b => exact execByteReceived_leadsTo_notesFit p h b
  | status p seq args => exact commandRow_leadsTo_notesFit p seq args .status h
  | attach p seq args => exact commandRow_leadsTo_notesFit p seq args .attach h
  | detach p seq args => exact commandRow_leadsTo_notesFit p seq args .detach h
  | readTime p seq args => exact commandRow_leadsTo_notesFit p seq args .readTime h
  | start p seq args => exact commandRow_leadsTo_notesFit p seq args .start h
  | halt p seq args => exact commandRow_leadsTo_notesFit p seq args .halt h
  | step p seq args => exact commandRow_leadsTo_notesFit p seq args .step h
  | slew p seq args => exact commandRow_leadsTo_notesFit p seq args .slew h
  | claimAuthority p seq args => exact commandRow_leadsTo_notesFit p seq args .claimAuthority h
  | releaseAuthority p seq args => exact commandRow_leadsTo_notesFit p seq args .releaseAuthority h
  | setReserves p seq args => exact commandRow_leadsTo_notesFit p seq args .setReserves h
  | setCeiling p seq args => exact commandRow_leadsTo_notesFit p seq args .setCeiling h
  | arm p seq args => exact commandRow_leadsTo_notesFit p seq args .arm h
  | armOnCapture p seq args => exact commandRow_leadsTo_notesFit p seq args .armOnCapture h
  | modify p seq args => exact commandRow_leadsTo_notesFit p seq args .modify h
  | pause p seq args => exact commandRow_leadsTo_notesFit p seq args .pause h
  | resume p seq args => exact commandRow_leadsTo_notesFit p seq args .resume h
  | cancel p seq args => exact commandRow_leadsTo_notesFit p seq args .cancel h
  | queryEntry p seq args => exact commandRow_leadsTo_notesFit p seq args .queryEntry h
  | listEntries p seq args => exact commandRow_leadsTo_notesFit p seq args .listEntries h
  | claimLine p seq args => exact commandRow_leadsTo_notesFit p seq args .claimLine h
  | releaseLine p seq args => exact commandRow_leadsTo_notesFit p seq args .releaseLine h
  | driveLine p seq args => exact commandRow_leadsTo_notesFit p seq args .driveLine h
  | readLines p seq args => exact commandRow_leadsTo_notesFit p seq args .readLines h
  | claimCapture p seq args => exact commandRow_leadsTo_notesFit p seq args .claimCapture h
  | releaseCapture p seq args => exact commandRow_leadsTo_notesFit p seq args .releaseCapture h
  | configureCapture p seq args => exact commandRow_leadsTo_notesFit p seq args .configureCapture h
  | subscribe p seq args => exact commandRow_leadsTo_notesFit p seq args .subscribe h
  | unsubscribe p seq args => exact commandRow_leadsTo_notesFit p seq args .unsubscribe h
  | readCapture p seq args => exact commandRow_leadsTo_notesFit p seq args .readCapture h
  | fetchNotes p seq args => exact commandRow_leadsTo_notesFit p seq args .fetchNotes h
  | setAttention p seq args => exact commandRow_leadsTo_notesFit p seq args .setAttention h

theorem step_leadsTo_notesFit {s : State} (h : NotesFit s) : LeadsTo NotesFit (step s) := by
  unfold step
  split
  · exact leadsTo_next.mpr h
  · exact exec_leadsTo_notesFit _ (h.of_notes_eq rfl)

/-- Settles O52: each queue is changed by arrivals, fetches and clearings alone, each of which keeps
its bound. -/
theorem stepKeepsNotesFit : Obligations.StepKeepsNotesFit :=
  fun _ t h hstep => step_leadsTo_notesFit h t hstep

end Sys2Proof.Machine
end
